-- ==== Sys2Proof/Word.lean ====
section
/-! DEFINITION. The two word types of the block (spec/00_scope.md R4, R6): every value is an unsigned bit string,
and arithmetic on it wraps at its width. -/

namespace Sys2Proof

/-- A byte: a general register, a timer, a memory cell, an immediate NN (R21, R29, R50, R73). -/
abbrev Byte := BitVec 8

/-- A 16-bit word: an opcode, `I`, `pc`, a return address (R24, R26, R27, R70). -/
abbrev Word := BitVec 16

end Sys2Proof
end

