-- ==== Sys2Proof/Config.lean ====
section
/-! DEFINITION. The implementation parameters of spec/00_scope.md R4 and the one free value of the machine, the random
byte of rand-mask (spec/40_step_cycle.md R106). The 80 font bytes, also a parameter, stand in Machine/Font.lean. -/

namespace Sys2Proof.Config

/-- `ADDR_MAX`: the largest valid memory address; memory is 4096 bytes (R4, R50). -/
@[simp] abbrev addrMax : Nat := 0xFFF

/-- `PROG_BASE`: the program image loads here and the pc starts here (R4, R58). -/
@[simp] abbrev progBase : Nat := 0x200

/-- `PROG_MAX`: the largest program image, 4096 - 0x200 bytes (R4, R354). -/
@[simp] abbrev progMax : Nat := 3584

/-- `STACK_DEPTH`: the number of return addresses the call stack holds (R4, R27). -/
@[simp] abbrev stackDepth : Nat := 16

/-- The framebuffer's width in pixels (R4, R30). -/
@[simp] abbrev fbWidth : Nat := 64

/-- The framebuffer's number of cells, 64 x 32 (R4, R30). -/
@[simp] abbrev fbCells : Nat := 2048

/-- `NKEYS`: the number of keys (R4, R31). -/
@[simp] abbrev keyCount : Nat := 16

/-- FREE VALUE (assumption 2). The random byte the `n`-th executed rand-mask takes when the host names none: it stands
for the source's `randomByte()`, of which the spec gives no generator, seed or distribution (R106, decision D11).
It has no body: nothing can evaluate it or prove a value of it. -/
opaque randomByte : Nat → Byte

end Sys2Proof.Config
end

