-- ==== Sys2Proof/Syntax.lean ====
section
/-! DEFINITION. The 34 instructions, one constructor per row of spec/opcode_table.json, in the table's order
(spec/30_encoding.md R74, R82). Operands carry the widths of the encoding's fields (R71 to R73). -/

namespace Sys2Proof

/-- A register operand X or Y: a 4-bit number naming one of V0 to VF; all 16 values are legal (R72). -/
abbrev RegIdx := BitVec 4

/-- An instruction with its decoded operands (R84). -/
inductive Instr where
  /-- CLS, 00E0: clear-screen (R120). -/
  | cls
  /-- RET, 00EE: return (R140). -/
  | ret
  /-- JP nnn, 1NNN: jump (R141). -/
  | jp (nnn : BitVec 12)
  /-- CALL nnn, 2NNN: call (R142). -/
  | call (nnn : BitVec 12)
  /-- SE Vx, nn, 3XNN: skip-eq-imm (R143). -/
  | seImm (x : RegIdx) (nn : Byte)
  /-- SNE Vx, nn, 4XNN: skip-neq-imm (R144). -/
  | sneImm (x : RegIdx) (nn : Byte)
  /-- SE Vx, Vy, 5XY0: skip-eq-reg (R145). -/
  | seReg (x y : RegIdx)
  /-- LD Vx, nn, 6XNN: set-imm (R171). -/
  | ldImm (x : RegIdx) (nn : Byte)
  /-- ADD Vx, nn, 7XNN: add-imm (R172). -/
  | addImm (x : RegIdx) (nn : Byte)
  /-- LD Vx, Vy, 8XY0: set-reg (R173). -/
  | ldReg (x y : RegIdx)
  /-- OR Vx, Vy, 8XY1 (R174). -/
  | or (x y : RegIdx)
  /-- AND Vx, Vy, 8XY2 (R175). -/
  | and (x y : RegIdx)
  /-- XOR Vx, Vy, 8XY3 (R176). -/
  | xor (x y : RegIdx)
  /-- ADD Vx, Vy, 8XY4: add-reg (R179). -/
  | addReg (x y : RegIdx)
  /-- SUB Vx, Vy, 8XY5: sub-reg X - Y (R180). -/
  | sub (x y : RegIdx)
  /-- SHR Vx, 8XY6: shift-right; Y is decoded and ignored (R181). -/
  | shr (x y : RegIdx)
  /-- SUBN Vx, Vy, 8XY7: sub-reg Y - X (R182). -/
  | subn (x y : RegIdx)
  /-- SHL Vx, 8XYE: shift-left; Y is decoded and ignored (R183). -/
  | shl (x y : RegIdx)
  /-- SNE Vx, Vy, 9XY0: skip-neq-reg (R146). -/
  | sneReg (x y : RegIdx)
  /-- LD I, nnn, ANNN: set-index (R200). -/
  | ldI (nnn : BitVec 12)
  /-- JP V0, nnn, BNNN: jump-offset (R149). -/
  | jpV0 (nnn : BitVec 12)
  /-- RND Vx, nn, CXNN: rand-mask (R184). -/
  | rnd (x : RegIdx) (nn : Byte)
  /-- DRW Vx, Vy, n, DXYN: draw-sprite (R122). -/
  | drw (x y : RegIdx) (n : BitVec 4)
  /-- SKP Vx, EX9E: skip-key-pressed (R231). -/
  | skp (x : RegIdx)
  /-- SKNP Vx, EXA1: skip-key-not-pressed (R232). -/
  | sknp (x : RegIdx)
  /-- LD Vx, DT, FX07: get-delay (R250). -/
  | ldVxDt (x : RegIdx)
  /-- LD Vx, K, FX0A: wait-key (R233). -/
  | ldVxK (x : RegIdx)
  /-- LD DT, Vx, FX15: set-delay (R252). -/
  | ldDtVx (x : RegIdx)
  /-- LD ST, Vx, FX18: set-sound (R253). -/
  | ldStVx (x : RegIdx)
  /-- ADD I, Vx, FX1E: add-to-index (R201). -/
  | addIVx (x : RegIdx)
  /-- LD F, Vx, FX29: font-char-address (R203). -/
  | ldFVx (x : RegIdx)
  /-- LD B, Vx, FX33: store-bcd (R204). -/
  | ldBVx (x : RegIdx)
  /-- LD [I], Vx, FX55: reg-dump (R205). -/
  | ldMemVx (x : RegIdx)
  /-- LD Vx, [I], FX65: reg-load (R206). -/
  | ldVxMem (x : RegIdx)
  deriving DecidableEq, Repr

end Sys2Proof
end

