-- ==== Sys2Proof/WellFormed.lean ====
section
/-! DEFINITION. What is well formed. Every term of Instr is: its operand types are exactly the widths of the encoding's
fields, and the spec forbids no operand value (spec/30_encoding.md R72, R73). What can be ill formed is an opcode word
(R79), a program image (spec/70_reset_and_hazards.md R354) and a key number (R356); each has its check here. -/

namespace Sys2Proof

/-- One row of spec/opcode_table.json: the bits that are fixed, and their values. -/
structure OpcodePattern where
  mask : Word
  value : Word
  deriving DecidableEq, Repr

/-- The rows of the formats NONE, NNN, XNN and XYN (R74, R75, R76). -/
def familyPatterns : List OpcodePattern :=
  [⟨0xFFFF, 0x00E0⟩, ⟨0xFFFF, 0x00EE⟩, ⟨0xF000, 0x1000⟩, ⟨0xF000, 0x2000⟩, ⟨0xF000, 0x3000⟩, ⟨0xF000, 0x4000⟩,
   ⟨0xF000, 0x6000⟩, ⟨0xF000, 0x7000⟩, ⟨0xF000, 0xA000⟩, ⟨0xF000, 0xB000⟩, ⟨0xF000, 0xC000⟩, ⟨0xF000, 0xD000⟩]

/-- The rows of format XY: the two register skips and the 8 family (R75, R77). -/
def registerPatterns : List OpcodePattern :=
  [⟨0xF00F, 0x5000⟩, ⟨0xF00F, 0x9000⟩, ⟨0xF00F, 0x8000⟩, ⟨0xF00F, 0x8001⟩, ⟨0xF00F, 0x8002⟩, ⟨0xF00F, 0x8003⟩,
   ⟨0xF00F, 0x8004⟩, ⟨0xF00F, 0x8005⟩, ⟨0xF00F, 0x8006⟩, ⟨0xF00F, 0x8007⟩, ⟨0xF00F, 0x800E⟩]

/-- The rows of format X: the E and F families (R78). -/
def subCodePatterns : List OpcodePattern :=
  [⟨0xF0FF, 0xE09E⟩, ⟨0xF0FF, 0xE0A1⟩, ⟨0xF0FF, 0xF007⟩, ⟨0xF0FF, 0xF00A⟩, ⟨0xF0FF, 0xF015⟩, ⟨0xF0FF, 0xF018⟩,
   ⟨0xF0FF, 0xF01E⟩, ⟨0xF0FF, 0xF029⟩, ⟨0xF0FF, 0xF033⟩, ⟨0xF0FF, 0xF055⟩, ⟨0xF0FF, 0xF065⟩]

/-- All 34 rows of spec/opcode_table.json. -/
def opcodePatterns : List OpcodePattern := familyPatterns ++ registerPatterns ++ subCodePatterns

/-- An opcode word is well formed when it matches a row of the opcode table; every other word is unknown (R79). -/
def wellFormedWord (op : Word) : Bool :=
  opcodePatterns.any fun p => op &&& p.mask == p.value

/-- A program image is well formed when it fits above `PROG_BASE` (R354); an empty one does (R353). -/
def wellFormedImage (bytes : List Byte) : Bool :=
  decide (bytes.length ≤ Config.progMax)

/-- A key number is well formed when it names one of the 16 keys (R356, R230). -/
def wellFormedKey (k : Nat) : Bool :=
  decide (k < Config.keyCount)

end Sys2Proof
end

