-- ==== Sys2Proof/Machine/Font.lean ====
section
/-! DEFINITION. The parameter FONT (spec/00_scope.md R4): the 80 bytes that reset copies to 0x000 to 0x04F
(spec/20_memory.md R58, spec/70_reset_and_hazards.md R350), at the default of spec/92_eei_decisions.md D22. -/

namespace Sys2Proof.Machine

/-- The glyphs of the digits 0 to 7. PRESUMED (assumption 4): the spec's default is general knowledge (D22, G4). -/
def fontLow : List (List Byte) :=
  [[0xF0, 0x90, 0x90, 0x90, 0xF0], [0x20, 0x60, 0x20, 0x20, 0x70], [0xF0, 0x10, 0xF0, 0x80, 0xF0],
   [0xF0, 0x10, 0xF0, 0x10, 0xF0], [0x90, 0x90, 0xF0, 0x10, 0x10], [0xF0, 0x80, 0xF0, 0x10, 0xF0],
   [0xF0, 0x80, 0xF0, 0x90, 0xF0], [0xF0, 0x10, 0x20, 0x40, 0x40]]

/-- The glyphs of the digits 8 to F. PRESUMED, as above. -/
def fontHigh : List (List Byte) :=
  [[0xF0, 0x90, 0xF0, 0x90, 0xF0], [0xF0, 0x90, 0xF0, 0x10, 0xF0], [0xF0, 0x90, 0xF0, 0x90, 0x90],
   [0xE0, 0x90, 0xE0, 0x90, 0xE0], [0xF0, 0x80, 0x80, 0x80, 0xF0], [0xE0, 0x90, 0x90, 0x90, 0xE0],
   [0xF0, 0x80, 0xF0, 0x80, 0xF0], [0xF0, 0x80, 0xF0, 0x80, 0x80]]

/-- `FONT[a]`: the byte at offset `a`; glyph `d` is the five bytes from `5 * d` (R58). Past the table it is 0. -/
def fontByte (a : Nat) : Byte := ((fontLow ++ fontHigh).getD (a / 5) []).getD (a % 5) 0

end Sys2Proof.Machine
end

