-- ==== Sys2Proof/Machine/State.lean ====
section
/-! DEFINITION. The architectural state (spec/10_state.md R20), the error records and step statuses
(spec/60_exceptions.md R301), the stop reasons, and the state after reset (R38). -/

namespace Sys2Proof.Machine

/-- Main memory (R50): the bytes that differ from the reset contents, by rising address (`Memory.wf`, assumption 5). -/
abbrev Memory := List Host.Cell

/-- The framebuffer (R30): 32 rows of 64 one-bit cells; cell `c` is bit `c % 64` of row `c / 64` (assumption 6). -/
abbrev Framebuffer := Vector (BitVec 64) 32

/-- What an out-of-bounds access reached for (R301). -/
inductive Region where
  /-- The instruction fetch (R102). -/
  | fetch
  /-- A data access to memory (R55). -/
  | memory
  /-- A framebuffer cell (R66, R124). -/
  | framebuffer
  /-- A key number (R66, R230). -/
  | key
  deriving DecidableEq, Repr

/-- A fatal error's record (R301, codes 2 to 5). Each is raised into `err` by `State.raise` (R304): the machine takes a
next state and halts, it does not fault. -/
inductive ErrorRecord where
  /-- A call with 16 live entries, at the call's address (R142). -/
  | stackOverflow (pc : Word)
  /-- A return with no live entry, at the return's address (R140). -/
  | stackUnderflow (pc : Word)
  /-- An access out of range: the instruction's address, the region, and the first bad address, cell or key (R301). -/
  | outOfBounds (pc : Word) (region : Region) (location : Nat)
  /-- A program image longer than 3584 bytes (R354). -/
  | loadError (length : Nat)
  deriving DecidableEq, Repr

/-- What a `step` or a `load` reports (R34, R301). -/
inductive Status where
  /-- The transaction raised no error. -/
  | ok
  /-- The opcode at `pc` matched no instruction; non-fatal (R104, R302). -/
  | unknownOpcode (opcode pc : Word)
  /-- The transaction raised a fatal error (R304). -/
  | fatal (record : ErrorRecord)
  /-- The step did nothing, a fatal error being latched (R105). -/
  | halted (record : ErrorRecord)
  deriving DecidableEq, Repr

/-- Faults. There is none: every error of this block has an effect the spec describes, an entry in the error latch
(R304) or a skipped word (R104), and the machine takes that next state. Nobody raises one; safe. -/
inductive Fault where
  deriving DecidableEq, Repr

/-- Refusals. -/
inductive Refusal where
  /-- An arm of `exec` whose instruction has no meaning yet; no arm raises it in this model. Safe: the machine stops. -/
  | notModelled (mnemonic : String)
  deriving DecidableEq, Repr

/-- The machine's state: the tuple of R20, then the read-outs of the last transaction (R34) and the model's own count of
random bytes (assumption 2). -/
structure State where
  /-- Main memory, 4096 bytes (R50). -/
  mem : Memory
  /-- The general registers V0 to VF (R21); VF is the flag register (R22). -/
  V : Vector Byte 16
  /-- The index register (R24). -/
  I : Word
  /-- The program counter (R26). -/
  pc : Word
  /-- The return-address stack (R27). -/
  stack : Vector Word 16
  /-- The number of live stack entries, 0 to 16 (R28). -/
  sp : Fin 17
  /-- The delay timer (R29). -/
  dt : Byte
  /-- The sound timer (R29). -/
  st : Byte
  /-- The framebuffer (R30). -/
  fb : Framebuffer
  /-- The key state; true is pressed (R31). -/
  key : Vector Bool 16
  /-- The redraw flag (R32). -/
  redraw : Bool
  /-- The error latch; none is the spec's NONE (R33). -/
  err : Option ErrorRecord
  /-- Read-out: the status of the last `step` or `load` (R34, R355; assumption 3). -/
  status : Status
  /-- Read-out: the `audible` output of the last `tick` (R255; assumption 3). -/
  audible : Bool
  /-- Read-out: the `beep` output of the last `tick` (R255; assumption 3). -/
  beep : Bool
  /-- The MODEL's own: how many rand-masks have taken a random byte (assumption 2). -/
  draws : Nat
  deriving DecidableEq, Repr

/-- The state after reset, and at construction (R38, R351). The read-outs and `draws` are the model's choice
(assumptions 2 and 3). -/
def State.reset : State where
  mem := []
  V := Vector.replicate 16 0
  I := 0
  pc := 0x200
  stack := Vector.replicate 16 0
  sp := 0
  dt := 0
  st := 0
  fb := Vector.replicate 32 0
  key := Vector.replicate 16 false
  redraw := false
  err := none
  status := .ok
  audible := false
  beep := false
  draws := 0

end Sys2Proof.Machine
end

