-- ==== Sys2Proof/Machine/Ops.lean ====
section
/-! DEFINITION. The named operations over the state: memory, registers, framebuffer, stack, program counter, the fetch,
and taking a fatal error (spec/00_scope.md R7 to R10, spec/60_exceptions.md R304). -/

namespace Sys2Proof.Machine

/-! ### Memory (R8, R50, R55) -/

/-- What an address nothing has written reads as: the reset contents, FONT below 0x050 and 0 above (R38). -/
def Memory.unwritten (a : Nat) : Byte := if a < 80 then fontByte a else 0

/-- The byte listed for an address, if any. -/
def Memory.find (a : Nat) : Memory → Option Byte
  | [] => none
  | (k, b) :: m => if k = a then some b else Memory.find a m

/-- Read one byte (R8). Callers have checked the address (R55). -/
def Memory.read (m : Memory) (a : Nat) : Byte := (Memory.find a m).getD (Memory.unwritten a)

/-- Drop every entry of an address. -/
def Memory.erase (a : Nat) : Memory → Memory
  | [] => []
  | (k, b) :: m => if k = a then Memory.erase a m else (k, b) :: Memory.erase a m

/-- List a byte for an address, keeping addresses rising. -/
def Memory.insert (a : Nat) (v : Byte) : Memory → Memory
  | [] => [(a, v)]
  | (k, b) :: m =>
    if a < k then (a, v) :: (k, b) :: m
    else if k = a then (a, v) :: m
    else (k, b) :: Memory.insert a v m

/-- Write one byte (R8), keeping the canonical form: a byte equal to the unwritten one is not listed. -/
def Memory.write (m : Memory) (a : Nat) (v : Byte) : Memory :=
  if v = Memory.unwritten a then Memory.erase a m else Memory.insert a v m

/-- Write bytes at consecutive addresses, the first at `a`, in rising order (R8). -/
def Memory.writeBytes (m : Memory) (a : Nat) : List Byte → Memory
  | [] => m
  | v :: vs => Memory.writeBytes (Memory.write m a v) (a + 1) vs

/-- The entries from `low` up: addresses rising, inside the address space, none holding its unwritten byte. -/
def Memory.wfFrom (low : Nat) : Memory → Bool
  | [] => true
  | (k, b) :: m => decide (low ≤ k) && decide (k ≤ Config.addrMax) && b != Memory.unwritten k && Memory.wfFrom (k + 1) m

/-- The canonical form of memory. -/
def Memory.wf (m : Memory) : Bool := Memory.wfFrom 0 m

/-- The first of the `n` addresses from `base` that is above `ADDR_MAX`, in access order (R55, R202). -/
def firstOutOfRange (base n : Nat) : Option Nat :=
  ((List.range n).map (base + ·)).find? fun a => decide (a > Config.addrMax)

/-! ### Single fields of the state -/

/-- Replace memory. -/
def State.setMem (s : State) (m : Memory) : State := { s with mem := m }

/-- `V[x]` (R7, R21). -/
def State.reg (s : State) (x : RegIdx) : Byte := s.V[x.toNat]

/-- `V[x] <- b` (R7, R21). No register is hard-wired. -/
def State.setReg (s : State) (x : RegIdx) (b : Byte) : State := { s with V := s.V.set x.toNat b }

/-- `I <- w` (R24). -/
def State.setI (s : State) (w : Word) : State := { s with I := w }

/-- `pc <- w` (R10). -/
def State.setPc (s : State) (w : Word) : State := { s with pc := w }

/-- `stack[k] <- w` (R27). -/
def State.setStack (s : State) (k : Fin 16) (w : Word) : State := { s with stack := s.stack.set k w }

/-- `sp <- n` (R28). -/
def State.setSp (s : State) (n : Fin 17) : State := { s with sp := n }

/-- `dt <- b` (R29). -/
def State.setDt (s : State) (b : Byte) : State := { s with dt := b }

/-- `st <- b` (R29). -/
def State.setSt (s : State) (b : Byte) : State := { s with st := b }

/-- Replace the framebuffer. -/
def State.setFb (s : State) (fb : Framebuffer) : State := { s with fb := fb }

/-- `key[k] <- b` (R31). -/
def State.setKeyState (s : State) (k : Fin 16) (b : Bool) : State := { s with key := s.key.set k b }

/-- `redraw <- b` (R32). -/
def State.setRedraw (s : State) (b : Bool) : State := { s with redraw := b }

/-- `err <- e` (R33). -/
def State.setErr (s : State) (e : Option ErrorRecord) : State := { s with err := e }

/-- Keep the status of the last `step` or `load` (R34). -/
def State.setStatus (s : State) (r : Status) : State := { s with status := r }

/-- Keep the outputs of the last `tick` (R34). -/
def State.setSound (s : State) (audible beep : Bool) : State := { s with audible := audible, beep := beep }

/-- Count one random byte as taken (assumption 2). -/
def State.countDraw (s : State) : State := { s with draws := s.draws + 1 }

/-! ### Program counter (R10, R101, R147) -/

/-- The default advance, `pc <- pc + 2` mod 65536 (R101). -/
def State.advance (s : State) : State := s.setPc (s.pc + 2)

/-- A skip: 4 when the condition holds, else 2 (R147). -/
def State.skipIf (s : State) (c : Bool) : State := s.setPc (s.pc + if c then 4 else 2)

/-! ### Call stack (R27, R28, R148) -/

/-- Push a word on a stack with room: store it, then count it (R142). -/
def State.push (s : State) (w : Word) (room : s.sp.val < 16) : State :=
  (s.setStack ⟨s.sp.val, room⟩ w).setSp ⟨s.sp.val + 1, Nat.succ_lt_succ room⟩

/-- The entry the next pop reads, `stack[sp - 1]` (R28). -/
def State.top (s : State) : Word := s.stack[s.sp.val - 1]

/-- Drop the top entry; it is not cleared (R27, R140). -/
def State.pop (s : State) : State := s.setSp ⟨s.sp.val - 1, by omega⟩

/-! ### Framebuffer (R30, R66) -/

/-- Cell `c`; false past the last cell, where no caller reads. -/
def Framebuffer.cell (fb : Framebuffer) (c : Nat) : Bool :=
  if h : c / Config.fbWidth < 32 then fb[c / Config.fbWidth].getLsbD (c % Config.fbWidth) else false

/-- XOR one cell with 1 (R30, R122). -/
def Framebuffer.toggle (fb : Framebuffer) (c : Nat) : Framebuffer :=
  if h : c / Config.fbWidth < 32 then
    fb.set (c / Config.fbWidth) (fb[c / Config.fbWidth] ^^^ BitVec.twoPow 64 (c % Config.fbWidth))
  else fb

/-- Every cell 0 (R120). -/
def Framebuffer.clear : Framebuffer := Vector.replicate 32 0

/-! ### Keys (R31) -/

/-- `key[k]`; false past key 15, where no caller reads. -/
def State.keyAt (s : State) (k : Nat) : Bool := if h : k < Config.keyCount then s.key[k] else false

/-! ### Errors (R9, R304, R305) -/

/-- TAKING A FATAL ERROR (R304). `s` is the state at the start of the transaction, so every write made since is
discarded (R9); only the latch changes, and `pc` stays at the faulting instruction. There is no return from it: `reset`
alone clears the latch (R306). -/
def State.raise (s : State) (r : ErrorRecord) : State := s.setErr (some r)

/-- Report a completed step: FATAL when the latch is now set, else OK (R100, R304). -/
def State.report (s : State) : State :=
  s.setStatus (match s.err with
    | none => .ok
    | some r => .fatal r)

/-- The code of a fatal error's kind (R301, decision D13). -/
def ErrorRecord.code : ErrorRecord → Nat
  | .stackOverflow _ => 2
  | .stackUnderflow _ => 3
  | .outOfBounds _ _ _ => 4
  | .loadError _ => 5

/-- The code of a status (R301, decision D13). No instruction reads one. -/
def Status.code : Status → Nat
  | .ok => 0
  | .unknownOpcode _ _ => 1
  | .fatal r => r.code
  | .halted _ => 6

/-! ### Fetch (R100, R102) -/

/-- Fetch the big-endian opcode at `pc`, or report that `pc + 1` is above `ADDR_MAX` (R102). -/
def State.fetch (s : State) : Except ErrorRecord Word :=
  if s.pc.toNat + 1 > Config.addrMax then .error (.outOfBounds s.pc .fetch s.pc.toNat)
  else .ok (opcodeOfBytes (Memory.read s.mem s.pc.toNat) (Memory.read s.mem (s.pc.toNat + 1)))

/-- The outcome of an instruction or a transaction. -/
abbrev Result := Host.Outcome State Fault Refusal

/-- The step transaction over a way to execute an instruction (R100): the latch, the fetch, the decode, the execution,
in that order of checks (R303). -/
def stepTransaction (run : Instr → State → Result) (s : State) : Result :=
  match s.err with
  | some r => .next (s.setStatus (.halted r))
  | none =>
    match s.fetch with
    | .error r => .next (s.raise r).report
    | .ok op =>
      match decode op with
      | .error _ => .next (s.advance.setStatus (.unknownOpcode op s.pc))
      | .ok i =>
        match run i s with
        | .next t => .next t.report
        | .fault f => .fault f
        | .refused r => .refused r

end Sys2Proof.Machine
end

