-- ==== Sys2Proof/Machine/Operands.lean ====
section
/-! DEFINITION. The operand forms (spec/30_encoding.md R72, R73; spec/44_index_memory.md R202): registers X and Y are
`State.reg`, NN is used as it stands, and the rest are here. -/

namespace Sys2Proof.Machine

/-- The flag register, 0xF (R22). -/
abbrev flagReg : RegIdx := 0xF

/-- The offset register of jump-offset, always V0 (R149). -/
abbrev offsetReg : RegIdx := 0x0

/-- `zext_16(NNN)` (R73). -/
def addressOperand (nnn : BitVec 12) : Word := nnn.setWidth 16

/-- `zext_16` of a byte (R6). -/
def zextByte (b : Byte) : Word := b.setWidth 16

/-- The base of an index-relative access, as the unbounded integer the access computes with (R202). -/
def State.base (s : State) : Nat := s.I.toNat

/-- Advance the index past the registers V0 to VX: `I <- (I + X + 1) mod 65536` (R205, R206). -/
def State.advanceIndex (s : State) (x : RegIdx) : State := s.setI (s.I + BitVec.ofNat 16 (x.toNat + 1))

/-- The registers V0 to VX, V0 first (R205). -/
def State.regsUpTo (s : State) (x : RegIdx) : List Byte :=
  (List.range (x.toNat + 1)).map fun k => s.reg (BitVec.ofNat 4 k)

/-- Load V0 to VX from consecutive addresses, V0 from the lowest (R206). -/
def State.loadRegs (s : State) (base : Nat) (x : RegIdx) : State :=
  (List.range (x.toNat + 1)).foldl (fun t k => t.setReg (BitVec.ofNat 4 k) (Memory.read s.mem (base + k))) s

/-- The three decimal digits of a byte: hundreds, tens, ones (R204). -/
def bcdDigits (v : Byte) : List Byte :=
  [BitVec.ofNat 8 (v.toNat / 100), BitVec.ofNat 8 (v.toNat / 10 % 10), BitVec.ofNat 8 (v.toNat % 10)]

/-- The highest-numbered pressed key: the last one an ascending scan finds (R233, decision D16). -/
def State.lastPressed (s : State) : Option Nat :=
  (List.range Config.keyCount).foldl (fun found k => if s.keyAt k then some k else found) none

end Sys2Proof.Machine
end

