-- ==== Sys2Proof/Machine/Flags.lean ====
section
/-! DEFINITION. Every flag VF can receive (spec/43_alu.md R177, spec/44_index_memory.md R201, spec/41_display.md R123)
and the order of a flag write and a result write (spec/10_state.md R23). -/

namespace Sys2Proof.Machine

/-- A flag's byte: 1 or 0. -/
def flagByte (c : Bool) : Byte := if c then 1 else 0

/-- `V[0xF] <- flag` (R22). -/
def State.setFlag (s : State) (c : Bool) : State := s.setReg flagReg (flagByte c)

/-- add-reg's carry: `V[Y] > 255 - V[X]` (R179). -/
def carry (vx vy : Byte) : Bool := decide (vy.toNat > 255 - vx.toNat)

/-- NOT borrow of `a - b`: 0 when `b > a`, 1 when equal (R180, R182). -/
def notBorrow (a b : Byte) : Bool := !decide (b.toNat > a.toNat)

/-- The bit a right shift moves out (R181). -/
def shiftedOutRight (v : Byte) : Bool := v.getLsbD 0

/-- The bit a left shift moves out (R183). -/
def shiftedOutLeft (v : Byte) : Bool := v.getLsbD 7

/-- add-to-index's overflow: the unbounded sum passes 0xFFF (R201). -/
def indexOverflow (index : Word) (v : Byte) : Bool := decide (index.toNat + v.toNat > Config.addrMax)

/-- Write the flag, then the result, which is computed from registers read after the flag write (R23, decision D5). -/
def State.setFlagThenReg (s : State) (flag : Bool) (x : RegIdx) (result : State → Byte) : State :=
  (s.setFlag flag).setReg x (result (s.setFlag flag))

end Sys2Proof.Machine
end

