-- ==== Sys2Proof/Machine/Alu.lean ====
section
/-! DEFINITION. The ALU family (spec/43_alu.md). Arithmetic is mod 256 (R170); the five flag-writing operations go
through `State.setFlagThenReg` (R178). -/

namespace Sys2Proof.Machine

/-- LD Vx, nn (R171). -/
def execLdImm (x : RegIdx) (nn : Byte) (s : State) : Result := .next (s.setReg x nn).advance

/-- ADD Vx, nn (R172): no flag. -/
def execAddImm (x : RegIdx) (nn : Byte) (s : State) : Result := .next (s.setReg x (s.reg x + nn)).advance

/-- LD Vx, Vy (R173). -/
def execLdReg (x y : RegIdx) (s : State) : Result := .next (s.setReg x (s.reg y)).advance

/-- OR Vx, Vy (R174): VF is not reset (decision D6). -/
def execOr (x y : RegIdx) (s : State) : Result := .next (s.setReg x (s.reg x ||| s.reg y)).advance

/-- AND Vx, Vy (R175). -/
def execAnd (x y : RegIdx) (s : State) : Result := .next (s.setReg x (s.reg x &&& s.reg y)).advance

/-- XOR Vx, Vy (R176). -/
def execXor (x y : RegIdx) (s : State) : Result := .next (s.setReg x (s.reg x ^^^ s.reg y)).advance

/-- ADD Vx, Vy (R179). -/
def execAddReg (x y : RegIdx) (s : State) : Result :=
  .next (s.setFlagThenReg (carry (s.reg x) (s.reg y)) x fun t => t.reg x + t.reg y).advance

/-- SUB Vx, Vy (R180). -/
def execSub (x y : RegIdx) (s : State) : Result :=
  .next (s.setFlagThenReg (notBorrow (s.reg x) (s.reg y)) x fun t => t.reg x - t.reg y).advance

/-- SHR Vx (R181): Y is not read (decision D6). -/
def execShr (x _y : RegIdx) (s : State) : Result :=
  .next (s.setFlagThenReg (shiftedOutRight (s.reg x)) x fun t => t.reg x >>> 1).advance

/-- SUBN Vx, Vy (R182). -/
def execSubn (x y : RegIdx) (s : State) : Result :=
  .next (s.setFlagThenReg (notBorrow (s.reg y) (s.reg x)) x fun t => t.reg y - t.reg x).advance

/-- SHL Vx (R183): Y is not read (decision D6). -/
def execShl (x _y : RegIdx) (s : State) : Result :=
  .next (s.setFlagThenReg (shiftedOutLeft (s.reg x)) x fun t => t.reg x <<< 1).advance

/-- RND Vx, nn with the step's random byte given (R106, R184). -/
def execRndWith (rnd : Byte) (x : RegIdx) (nn : Byte) (s : State) : Result :=
  .next (s.countDraw.setReg x (rnd &&& nn)).advance

/-- RND Vx, nn (R184): the random byte is a free value (assumption 2). -/
def execRnd (x : RegIdx) (nn : Byte) (s : State) : Result := execRndWith (Config.randomByte s.draws) x nn s

end Sys2Proof.Machine
end

