-- ==== Sys2Proof/Machine/Control.lean ====
section
/-! DEFINITION. The control-flow family and the call-stack controller (spec/42_control.md). -/

namespace Sys2Proof.Machine

/-- RET (R140). -/
def execRet (s : State) : Result :=
  if s.sp = 0 then .next (s.raise (.stackUnderflow s.pc)) else .next (s.pop.setPc (s.top + 2))

/-- JP nnn (R141). -/
def execJp (nnn : BitVec 12) (s : State) : Result := .next (s.setPc (addressOperand nnn))

/-- CALL nnn (R142): the pushed word is the call's own address. -/
def execCall (nnn : BitVec 12) (s : State) : Result :=
  if room : s.sp.val < Config.stackDepth then .next ((s.push s.pc room).setPc (addressOperand nnn))
  else .next (s.raise (.stackOverflow s.pc))

/-- SE Vx, nn (R143). -/
def execSeImm (x : RegIdx) (nn : Byte) (s : State) : Result := .next (s.skipIf (s.reg x == nn))

/-- SNE Vx, nn (R144). -/
def execSneImm (x : RegIdx) (nn : Byte) (s : State) : Result := .next (s.skipIf (s.reg x != nn))

/-- SE Vx, Vy (R145). -/
def execSeReg (x y : RegIdx) (s : State) : Result := .next (s.skipIf (s.reg x == s.reg y))

/-- SNE Vx, Vy (R146). -/
def execSneReg (x y : RegIdx) (s : State) : Result := .next (s.skipIf (s.reg x != s.reg y))

/-- JP V0, nnn (R149): the offset register is V0, whatever the X nibble holds. -/
def execJpV0 (nnn : BitVec 12) (s : State) : Result :=
  .next (s.setPc (addressOperand nnn + zextByte (s.reg offsetReg)))

end Sys2Proof.Machine
end

