-- ==== Sys2Proof/Machine/Display.lean ====
section
/-! DEFINITION. The display family: clear-screen and draw-sprite, with the sprite compositor (spec/41_display.md). -/

namespace Sys2Proof.Machine

/-- `fb` and the collision flag while a sprite is drawn (R122). -/
abbrev Canvas := Framebuffer × Bool

/-- The cell of a sprite's pixel: `(ox + c) + (oy + r) * 64`, unbounded, no wrap or clamp (R121). -/
def spriteCell (ox oy r c : Nat) : Nat := (ox + c) + (oy + r) * Config.fbWidth

/-- Bit `7 - c` of a sprite row: its pixel in column `c`, the most significant bit leftmost (R121). -/
def spriteBit (row : Byte) (c : Nat) : Bool := row.getLsbD (7 - c)

/-- Draw the given columns of a sprite row, left to right: a set bit tests and toggles its cell, or names the first cell
out of range; a clear bit addresses nothing (R122). -/
def drawColumns (ox oy r : Nat) (row : Byte) : List Nat → Canvas → Except Nat Canvas
  | [], k => .ok k
  | c :: cs, k =>
    if spriteBit row c then
      if spriteCell ox oy r c < Config.fbCells then
        drawColumns ox oy r row cs
          (k.1.toggle (spriteCell ox oy r c), k.2 || k.1.cell (spriteCell ox oy r c))
      else .error (spriteCell ox oy r c)
    else drawColumns ox oy r row cs k

/-- Draw the given sprite rows in order: each row's memory read comes before its columns (R122, R124). -/
def drawRows (m : Memory) (base ox oy : Nat) : List Nat → Canvas → Except (Region × Nat) Canvas
  | [], k => .ok k
  | r :: rs, k =>
    if base + r > Config.addrMax then .error (.memory, base + r)
    else
      match drawColumns ox oy r (Memory.read m (base + r)) (List.range 8) k with
      | .error t => .error (.framebuffer, t)
      | .ok k' => drawRows m base ox oy rs k'

/-- CLS (R120). -/
def execCls (s : State) : Result := .next ((s.setFb Framebuffer.clear).setRedraw true).advance

/-- DRW (R122): the origin and the base are read before VF is cleared (decision D19). -/
def execDrw (x y : RegIdx) (n : BitVec 4) (s : State) : Result :=
  match drawRows s.mem s.base (s.reg x).toNat (s.reg y).toNat (List.range n.toNat) (s.fb, false) with
  | .error (region, location) => .next (s.raise (.outOfBounds s.pc region location))
  | .ok (fb, collision) => .next (((s.setFlag collision).setFb fb).setRedraw true).advance

end Sys2Proof.Machine
end

