-- ==== Sys2Proof/Machine/Index.lean ====
section
/-! DEFINITION. The index and memory family, with the BCD codec (spec/44_index_memory.md). -/

namespace Sys2Proof.Machine

/-- An index-relative access of `n` bytes: the effect when every address is in range, else the precise error at the
first one that is not (R55, R202). -/
def State.access (s : State) (n : Nat) (effect : State) : Result :=
  match firstOutOfRange s.base n with
  | some a => .next (s.raise (.outOfBounds s.pc .memory a))
  | none => .next effect

/-- LD I, nnn (R200). -/
def execLdI (nnn : BitVec 12) (s : State) : Result := .next (s.setI (addressOperand nnn)).advance

/-- ADD I, Vx (R201): the flag is written first and V[X] is read after it (decision D5). -/
def execAddIVx (x : RegIdx) (s : State) : Result :=
  let t := s.setFlag (indexOverflow s.I (s.reg x))
  .next (t.setI (t.I + zextByte (t.reg x))).advance

/-- LD F, Vx (R203): V[X] is not masked (decision D28). -/
def execLdFVx (x : RegIdx) (s : State) : Result := .next (s.setI (zextByte (s.reg x) * 5)).advance

/-- LD B, Vx (R204). -/
def execLdBVx (x : RegIdx) (s : State) : Result :=
  s.access 3 (s.setMem (Memory.writeBytes s.mem s.base (bcdDigits (s.reg x)))).advance

/-- LD [I], Vx (R205). -/
def execLdMemVx (x : RegIdx) (s : State) : Result :=
  s.access (x.toNat + 1) ((s.setMem (Memory.writeBytes s.mem s.base (s.regsUpTo x))).advanceIndex x).advance

/-- LD Vx, [I] (R206). -/
def execLdVxMem (x : RegIdx) (s : State) : Result :=
  s.access (x.toNat + 1) ((s.loadRegs s.base x).advanceIndex x).advance

end Sys2Proof.Machine
end

