-- ==== Sys2Proof/Machine/Input.lean ====
section
/-! DEFINITION. The input family (spec/45_input.md). -/

namespace Sys2Proof.Machine

/-- Skip on key V[X] being in the wanted state; a key number above 15 is a precise error (R230). -/
def State.skipOnKey (s : State) (x : RegIdx) (pressed : Bool) : Result :=
  if (s.reg x).toNat < Config.keyCount then .next (s.skipIf (s.keyAt (s.reg x).toNat == pressed))
  else .next (s.raise (.outOfBounds s.pc .key (s.reg x).toNat))

/-- SKP Vx (R231). -/
def execSkp (x : RegIdx) (s : State) : Result := s.skipOnKey x true

/-- SKNP Vx (R232). -/
def execSknp (x : RegIdx) (s : State) : Result := s.skipOnKey x false

/-- LD Vx, K (R233): with no key pressed nothing changes, and the instruction runs again on the next step. -/
def execLdVxK (x : RegIdx) (s : State) : Result :=
  match s.lastPressed with
  | some k => .next (s.setReg x (BitVec.ofNat 8 k)).advance
  | none => .next s

end Sys2Proof.Machine
end

