-- ==== Sys2Proof/Machine/Timers.lean ====
section
/-! DEFINITION. The timer family (spec/46_timers.md R250, R252, R253). The countdown is `tick`, in Transactions.lean. -/

namespace Sys2Proof.Machine

/-- LD Vx, DT (R250). -/
def execLdVxDt (x : RegIdx) (s : State) : Result := .next (s.setReg x s.dt).advance

/-- LD DT, Vx (R252). -/
def execLdDtVx (x : RegIdx) (s : State) : Result := .next (s.setDt (s.reg x)).advance

/-- LD ST, Vx (R253). -/
def execLdStVx (x : RegIdx) (s : State) : Result := .next (s.setSt (s.reg x)).advance

end Sys2Proof.Machine
end

