-- ==== Sys2Proof/Machine/Step.lean ====
section
/-! DEFINITION. The step transaction (spec/40_step_cycle.md R100): the machine's own step, whose random byte is the free
value of assumption 2; the same step with the host's random byte (R106); and the host's placing of a word to fetch. -/

namespace Sys2Proof.Machine

/-- One step; a rand-mask takes the next free byte (assumption 2). -/
def step (s : State) : Host.Outcome State Fault Refusal := stepTransaction exec s

/-- Execute with the step's random byte given: only rand-mask reads it (R106). -/
def execWith (rnd : Byte) (i : Instr) (s : State) : Result :=
  match i with
  | .rnd x nn => execRndWith rnd x nn s
  | i => exec i s

/-- `step(rnd)`: one step with the host's random byte (R11, R100, R106). -/
def stepWith (rnd : Byte) (s : State) : Result := stepTransaction (execWith rnd) s

/-- `s` with the instruction of a table word stored where the next fetch reads it (assumption 12). A fetch needs an
empty error latch (R105) and a pc of at most 0xFFE (R102): where they do not hold, the latch is emptied and the pc set to
`PROG_BASE`. -/
def State.withFetchWord (s : State) (nbits w : Nat) : State :=
  let pc : Word := if s.pc.toNat + 1 > Config.addrMax then 0x200 else s.pc
  let bytes := bytesOfOpcode (tableOpcode nbits w)
  ((s.setPc pc).setErr none).setMem (Memory.writeBytes s.mem pc.toNat [bytes.1, bytes.2])

end Sys2Proof.Machine
end

