-- ==== Sys2Proof/Machine/Transactions.lean ====
section
/-! DEFINITION. The host's transactions (spec/00_scope.md R11, spec/70_reset_and_hazards.md R355): `reset`, `load`,
`step(rnd)`, `tick`, `set_key` and `clear_redraw`, and any interleaving of them (spec/46_timers.md R256). -/

namespace Sys2Proof.Machine

/-- `reset`: every element at its reset value (R350). The count of random bytes goes on, so that no two rand-masks of a
run share a free value (assumption 2). -/
def State.doReset (s : State) : State := { State.reset with draws := s.draws }

/-- `load(bytes)`: copy an image to 0x200, or latch a LoadError and copy nothing (R353, R354). It does not reset. -/
def State.load (s : State) (bytes : List Byte) : State :=
  if bytes.length > Config.progMax then (s.raise (.loadError bytes.length)).report
  else (s.setMem (Memory.writeBytes s.mem Config.progBase bytes)).setStatus .ok

/-- A countdown step, clamped at zero (R254). -/
def countDown (b : Byte) : Byte := if b.toNat > 0 then b - 1 else b

/-- `tick`: count both timers down and give the sound outputs, computed from the sound timer before it (R254, R255). -/
def State.tick (s : State) : State :=
  ((s.setDt (countDown s.dt)).setSt (countDown s.st)).setSound (decide (s.st.toNat > 0)) (decide (s.st.toNat = 1))

/-- `set_key(k, b)` (R356). -/
def State.setKey (s : State) (k : Fin 16) (b : Bool) : State := s.setKeyState k b

/-- `clear_redraw` (R357). -/
def State.clearRedraw (s : State) : State := s.setRedraw false

/-- One of the six transactions (R11). -/
inductive Transaction where
  | reset
  | load (bytes : List Byte)
  | step (rnd : Byte)
  | tick
  | setKey (k : Fin 16) (b : Bool)
  | clearRedraw
  deriving DecidableEq, Repr

/-- Perform one transaction to completion (R11, R355). -/
def perform (tr : Transaction) (s : State) : Result :=
  match tr with
  | .reset => .next s.doReset
  | .load bytes => .next (s.load bytes)
  | .step rnd => stepWith rnd s
  | .tick => .next s.tick
  | .setKey k b => .next (s.setKey k b)
  | .clearRedraw => .next s.clearRedraw

/-- Perform transactions in order: the host interleaves them as it will (R256, R358). -/
def performAll : List Transaction → State → Result
  | [], s => .next s
  | tr :: trs, s =>
    match perform tr s with
    | .next t => performAll trs t
    | .fault f => .fault f
    | .refused r => .refused r

end Sys2Proof.Machine
end

