-- ==== Sys2Proof/Safety.lean ====
section
/-! DEFINITION. The terms claims are stated in: what a transition leaves unchanged, what each instruction may write, when
a sprite fits, the machine's invariant, and the states a run may end in (spec/70_reset_and_hazards.md R358). -/

namespace Sys2Proof.Machine

/-! ### Frames -/

/-- The smallest pieces of state a frame speaks of: one byte, one register, one stack entry, one cell, one key, or one
field (R20). -/
inductive Part where
  | mem (a : Nat)
  | reg (x : RegIdx)
  | index
  | pc
  | stack (k : Nat)
  | sp
  | dt
  | st
  | cell (c : Nat)
  | key (k : Nat)
  | redraw
  | err
  | status
  | audible
  | beep
  | draws
  deriving DecidableEq, Repr

/-- A part reads the same in two states. -/
def Part.Same (s t : State) : Part → Prop
  | .mem a => Memory.read t.mem a = Memory.read s.mem a
  | .reg x => t.reg x = s.reg x
  | .index => t.I = s.I
  | .pc => t.pc = s.pc
  | .stack k => t.stack[k]? = s.stack[k]?
  | .sp => t.sp = s.sp
  | .dt => t.dt = s.dt
  | .st => t.st = s.st
  | .cell c => t.fb.cell c = s.fb.cell c
  | .key k => t.keyAt k = s.keyAt k
  | .redraw => t.redraw = s.redraw
  | .err => t.err = s.err
  | .status => t.status = s.status
  | .audible => t.audible = s.audible
  | .beep => t.beep = s.beep
  | .draws => t.draws = s.draws

/-- Every part but the listed ones reads the same in both states. -/
def UnchangedBut (s t : State) (parts : List Part) : Prop := ∀ p, p ∉ parts → Part.Same s t p

/-- The `n` bytes from an address. -/
def memParts (base n : Nat) : List Part := (List.range n).map fun k => .mem (base + k)

/-- The registers V0 to VX. -/
def regParts (x : RegIdx) : List Part := (List.range (x.toNat + 1)).map fun k => .reg (BitVec.ofNat 4 k)

/-- All 2048 cells of the framebuffer. -/
def cellParts : List Part := (List.range Config.fbCells).map .cell

/-- What the spec lets each instruction write, its fatal error included: the writers of VF (R22), I (R24), pc (R26),
stack and sp (R27, R28), the timers (R29), the framebuffer (R30), redraw (R32), err (R33, R300) and memory (R56). -/
def mayWrite (i : Instr) (s : State) : List Part :=
  match i with
  | .cls => [.pc, .redraw] ++ cellParts
  | .ret => [.pc, .sp, .err]
  | .jp _ => [.pc]
  | .call _ => [.pc, .sp, .stack s.sp.val, .err]
  | .seImm _ _ => [.pc]
  | .sneImm _ _ => [.pc]
  | .seReg _ _ => [.pc]
  | .ldImm x _ => [.pc, .reg x]
  | .addImm x _ => [.pc, .reg x]
  | .ldReg x _ => [.pc, .reg x]
  | .or x _ => [.pc, .reg x]
  | .and x _ => [.pc, .reg x]
  | .xor x _ => [.pc, .reg x]
  | .addReg x _ => [.pc, .reg x, .reg flagReg]
  | .sub x _ => [.pc, .reg x, .reg flagReg]
  | .shr x _ => [.pc, .reg x, .reg flagReg]
  | .subn x _ => [.pc, .reg x, .reg flagReg]
  | .shl x _ => [.pc, .reg x, .reg flagReg]
  | .sneReg _ _ => [.pc]
  | .ldI _ => [.pc, .index]
  | .jpV0 _ => [.pc]
  | .rnd x _ => [.pc, .reg x, .draws]
  | .drw _ _ _ => [.pc, .reg flagReg, .redraw, .err] ++ cellParts
  | .skp _ => [.pc, .err]
  | .sknp _ => [.pc, .err]
  | .ldVxDt x => [.pc, .reg x]
  | .ldVxK x => [.pc, .reg x]
  | .ldDtVx _ => [.pc, .dt]
  | .ldStVx _ => [.pc, .st]
  | .addIVx _ => [.pc, .index, .reg flagReg]
  | .ldFVx _ => [.pc, .index]
  | .ldBVx _ => [.pc, .err] ++ memParts s.base 3
  | .ldMemVx x => [.pc, .index, .err] ++ memParts s.base (x.toNat + 1)
  | .ldVxMem x => [.pc, .index, .err] ++ regParts x

/-! ### Sprites (R121, R122, R124) -/

/-- Bit `c` of row `r` of the sprite at I is set. -/
def State.spriteBit (s : State) (r c : Nat) : Bool := Machine.spriteBit (Memory.read s.mem (s.base + r)) c

/-- The cell of row `r`, column `c` of a sprite drawn at (V[X], V[Y]). -/
def State.spriteCell (s : State) (x y : RegIdx) (r c : Nat) : Nat :=
  Machine.spriteCell (s.reg x).toNat (s.reg y).toNat r c

/-- Row `r` of the sprite is in memory, and every set bit of it has a cell. -/
def State.RowFits (s : State) (x y : RegIdx) (r : Nat) : Prop :=
  s.base + r ≤ 0xFFF ∧ ∀ c < 8, s.spriteBit r c = true → s.spriteCell x y r c < 2048

/-- Every row of an `n`-row sprite fits. -/
def State.SpriteFits (s : State) (x y : RegIdx) (n : BitVec 4) : Prop := ∀ r < n.toNat, s.RowFits x y r

/-- A set bit of the sprite targets the cell. -/
def State.SpriteCovers (s : State) (x y : RegIdx) (n : BitVec 4) (cell : Nat) : Prop :=
  ∃ r < n.toNat, ∃ c < 8, s.spriteBit r c = true ∧ s.spriteCell x y r c = cell

/-! ### The invariant -/

/-- What every reachable state has: memory in canonical form, a pc that no update can have wrapped (R26), and live stack
entries that are addresses of calls (R140). -/
def State.Inv (s : State) : Prop :=
  Memory.wf s.mem = true ∧ s.pc.toNat ≤ 0x10FE ∧ ∀ k : Fin 16, k.val < s.sp.val → s.stack[k].toNat ≤ 0xFFE

/-! ### Where a run may end (R358) -/

/-- A fatal error is latched. -/
def State.Halted (s : State) : Prop := s.err ≠ none

/-- The next fetch succeeds and decodes to `i`. -/
def State.Fetches (s : State) (i : Instr) : Prop := ∃ op, s.fetch = .ok op ∧ decode op = .ok i

/-- The word at pc is a jump to itself. -/
def State.Parked (s : State) : Prop := s.err = none ∧ ∃ nnn, s.Fetches (.jp nnn) ∧ addressOperand nnn = s.pc

/-- The word at pc is wait-key and no key is pressed. -/
def State.Waiting (s : State) : Prop := s.err = none ∧ (∃ x, s.Fetches (.ldVxK x)) ∧ ∀ k < 16, s.keyAt k = false

/-! ### Instruction sequences -/

/-- Execute instructions one after another, stopping at the first that gives no next state. -/
def execAll : List Instr → State → Result
  | [], s => .next s
  | i :: is, s =>
    match exec i s with
    | .next t => execAll is t
    | .fault f => .fault f
    | .refused r => .refused r

end Sys2Proof.Machine
end

