-- ==== Sys2Proof/Certificates/Slice0/Obligations.lean ====
section
/-! DEFINITION. The statements for the provers: what each instruction, transaction and step does, what it leaves
unchanged, and what every step keeps. Each docstring names the rules of spec/ it formalises. -/

open Sys2Proof Sys2Proof.Machine

/-! ### Reset and the invariant -/

/-- R38: after reset every element has its reset value. I = 0 is the spec's own decision D9, err = NONE its decision D12,
and FONT its parameter (D22), whose bytes this statement does not fix. -/
def Obligations.ResetLeavesEveryElementAtItsResetValue : Prop :=
  (∀ a ≤ 0xFFF, Memory.read State.reset.mem a = if a < 80 then fontByte a else 0) ∧
  (∀ x, State.reset.reg x = 0) ∧ State.reset.I = 0 ∧ State.reset.pc = 0x200 ∧
  (∀ k : Fin 16, State.reset.stack[k] = 0) ∧ State.reset.sp = 0 ∧ State.reset.dt = 0 ∧ State.reset.st = 0 ∧
  (∀ c < 2048, State.reset.fb.cell c = false) ∧ (∀ k < 16, State.reset.keyAt k = false) ∧
  State.reset.redraw = false ∧ State.reset.err = none

/-- The invariant holds after reset. -/
def Obligations.ResetMeetsTheInvariant : Prop := State.reset.Inv

/-- R26, R140, R55: every step keeps memory in canonical form, the pc at or below 0x10FE, and the live stack entries at
or below 0xFFE. -/
def Obligations.EveryStepKeepsTheInvariant : Prop :=
  ∀ s t : State, s.Inv → step s = .next t → t.Inv

/-- The same of all six transactions, whatever the host sends (R11, R355). -/
def Obligations.EveryTransactionKeepsTheInvariant : Prop :=
  ∀ (tr : Transaction) (s t : State), s.Inv → perform tr s = .next t → t.Inv

/-! ### Encoding -/

/-- R84, R74: decoding the encoding of any instruction gives it back, with every operand; the table word too. -/
def Obligations.DecodeOfEncodeGivesTheInstructionBack : Prop :=
  ∀ i : Instr, decode (encode i) = .ok i ∧ decodeTableWord 16 (encode i).toNat = some i

/-- R84: a word that decodes is the encoding of what it decodes to, so no two words decode alike. -/
def Obligations.EncodeOfDecodeGivesTheWordBack : Prop :=
  ∀ (op : Word) (i : Instr), decode op = .ok i → encode i = op

/-- R79: the words that decode to nothing are exactly the sets (a) to (e), and exactly those that match no row of the
opcode table. Strict decoding is the spec's own decision D4. -/
def Obligations.UnknownWordsAreExactlyTheListedSets : Prop :=
  ∀ op : Word,
    (decode op = .error (.unknownOpcode op) ↔
      (fieldF op = 0x0 ∧ op ≠ 0x00E0 ∧ op ≠ 0x00EE) ∨
      ((fieldF op = 0x5 ∨ fieldF op = 0x9) ∧ fieldN op ≠ 0) ∨
      (fieldF op = 0x8 ∧ fieldN op ∈ [0x8, 0x9, 0xA, 0xB, 0xC, 0xD, 0xF]) ∨
      (fieldF op = 0xE ∧ fieldNN op ∉ [0x9E, 0xA1]) ∨
      (fieldF op = 0xF ∧ fieldNN op ∉ [0x07, 0x0A, 0x15, 0x18, 0x1E, 0x29, 0x33, 0x55, 0x65])) ∧
    (decode op = .error (.unknownOpcode op) ↔ wellFormedWord op = false)

/-- R75 to R78: words written out bit by bit from the encodings decode to what they stand for. -/
def Obligations.SampleWordsDecodeAsTheEncodingsSay : Prop :=
  decode 0b0000000011100000 = .ok .cls ∧
  decode 0b0010001100000000 = .ok (.call 0x300) ∧
  decode 0b0101000100100000 = .ok (.seReg 1 2) ∧
  decode 0b1000001000110100 = .ok (.addReg 2 3) ∧
  decode 0b1101000100100101 = .ok (.drw 1 2 5) ∧
  decode 0b1110010110100001 = .ok (.sknp 5) ∧
  decode 0b1111101100110011 = .ok (.ldBVx 0xB)

/-! ### The step transaction -/

/-- R100: when the word at pc decodes to `i`, a step is `exec i`, and the step's status is kept beside its next state. -/
def Obligations.StepRunsTheDecodedInstruction : Prop :=
  ∀ (s : State) (i : Instr), s.err = none → s.pc.toNat ≤ 0xFFE →
    decode (opcodeOfBytes (Memory.read s.mem s.pc.toNat) (Memory.read s.mem (s.pc.toNat + 1))) = .ok i →
    step s = match exec i s with
      | .next t => .next (t.setStatus (match t.err with
          | none => .ok
          | some r => .fatal r))
      | .fault f => .fault f
      | .refused r => .refused r

/-- R102, R54: the fetch gives `mem[pc] * 256 + mem[pc+1]` at any pc up to 0xFFE, even or odd; above it the step raises
OutOfBoundsAccess(FETCH, pc) and changes nothing else. The error and the legal odd pc are the spec's decisions D7 and D8. -/
def Obligations.FetchReadsTheBigEndianWordAtPc : Prop :=
  ∀ s : State,
    (s.pc.toNat ≤ 0xFFE → ∃ op, s.fetch = .ok op ∧
      op.toNat = (Memory.read s.mem s.pc.toNat).toNat * 256 + (Memory.read s.mem (s.pc.toNat + 1)).toNat) ∧
    (0xFFE < s.pc.toNat → s.err = none →
      step s = .next ((s.setErr (some (.outOfBounds s.pc .fetch s.pc.toNat))).setStatus
        (.fatal (.outOfBounds s.pc .fetch s.pc.toNat))))

/-- R104, R302: an unknown opcode moves pc past it and is reported with its address; nothing else changes, no error is
latched, and after one at 0xFFE the next step is a fetch error at 0x1000. -/
def Obligations.UnknownOpcodeIsReportedAndSkipped : Prop :=
  ∀ (s : State) (op : Word), s.err = none → s.fetch = .ok op → decode op = .error (.unknownOpcode op) →
    ∃ t, step s = .next t ∧ t.pc = s.pc + 2 ∧ t.status = .unknownOpcode op s.pc ∧
      UnchangedBut s t [.pc, .status] ∧ t.err = none ∧
      (s.pc = 0xFFE → t.pc = 0x1000 ∧
        step t = .next ((t.setErr (some (.outOfBounds 0x1000 .fetch 0x1000))).setStatus
          (.fatal (.outOfBounds 0x1000 .fetch 0x1000))))

/-- R105, R305: while an error is latched a step changes nothing and reports HALTED; tick, set_key and clear_redraw act
as without it; no transaction but reset clears the latch. The latch is the spec's own decision D12. -/
def Obligations.LatchedErrorHaltsEveryStepUntilReset : Prop :=
  ∀ (s : State) (r : ErrorRecord), s.err = some r →
    (∀ rnd, perform (.step rnd) s = .next (s.setStatus (.halted r))) ∧ step s = .next (s.setStatus (.halted r)) ∧
    s.tick = (s.setErr none).tick.setErr (some r) ∧ s.clearRedraw = (s.setErr none).clearRedraw.setErr (some r) ∧
    (∀ k b, s.setKey k b = ((s.setErr none).setKey k b).setErr (some r)) ∧
    (∀ tr t, perform tr s = .next t → (t.err = none ↔ tr = .reset))

/-- R106, R184: `step` is `step(rnd)` at the free byte; no instruction but rand-mask depends on `rnd`; and rand-mask
stores the byte given, masked. That the byte is under no law is the spec's decision D11. -/
def Obligations.OnlyRandMaskReadsTheRandomByte : Prop :=
  (∀ s : State, step s = stepWith (Config.randomByte s.draws) s) ∧
  (∀ (s : State) (a b : Byte), (∀ x nn, ¬ s.Fetches (.rnd x nn)) → stepWith a s = stepWith b s) ∧
  (∀ (s : State) (x : RegIdx) (nn rnd : Byte), s.err = none → s.Fetches (.rnd x nn) →
    ∃ t, stepWith rnd s = .next t ∧ t.reg x = rnd &&& nn ∧ t.pc = s.pc + 2 ∧
      UnchangedBut s t [.pc, .reg x, .status, .draws])

/-- R304, R9: a fatal error discards every write of its transaction: the next state is the state before it, with the
record latched and, after a step, reported. Preciseness is the spec's decision D7 and the latch its decision D12. -/
def Obligations.FatalErrorsArePrecise : Prop :=
  ∀ (s t : State) (r : ErrorRecord), s.err = none → t.err = some r →
    (∀ i, exec i s = .next t → t = s.setErr (some r)) ∧
    (∀ rnd, stepWith rnd s = .next t → t = (s.setErr (some r)).setStatus (.fatal r))

/-- R300, R301: the only instructions that raise are call, return, draw-sprite, store-bcd, reg-dump, reg-load and the key
skips, each with its own kind of record at its own address. -/
def Obligations.OnlyTheListedInstructionsRaise : Prop :=
  ∀ (i : Instr) (s t : State) (r : ErrorRecord), s.err = none → exec i s = .next t → t.err = some r →
    (∃ nnn, i = .call nnn ∧ r = .stackOverflow s.pc) ∨
    (i = .ret ∧ r = .stackUnderflow s.pc) ∨
    (∃ x y n a, i = .drw x y n ∧
      ((r = .outOfBounds s.pc .memory a ∧ 0xFFF < a) ∨ (r = .outOfBounds s.pc .framebuffer a ∧ 2048 ≤ a))) ∨
    (∃ x a, (i = .ldBVx x ∨ i = .ldMemVx x ∨ i = .ldVxMem x) ∧ r = .outOfBounds s.pc .memory a ∧ 0xFFF < a) ∨
    (∃ x k, (i = .skp x ∨ i = .sknp x) ∧ r = .outOfBounds s.pc .key k ∧ 15 < k)

/-! ### All instructions -/

/-- R107, R234: every instruction answers a next state in every state, and so does every step. -/
def Obligations.EveryInstructionAnswersANextState : Prop :=
  (∀ (i : Instr) (s : State), ∃ t, exec i s = .next t) ∧ (∀ s : State, ∃ t, step s = .next t)

/-- R22, R24, R26 to R33, R56: an instruction leaves unchanged every byte, register, stack entry, cell, key and field but
those the spec says it writes. -/
def Obligations.EveryInstructionWritesOnlyWhatItMay : Prop :=
  ∀ (i : Instr) (s t : State), exec i s = .next t → UnchangedBut s t (mayWrite i s)

/-- R22: only seven instructions write VF without naming it. That or, and, xor and set-reg leave it alone is the spec's
decision D6. -/
def Obligations.OnlySevenInstructionsWriteTheFlagImplicitly : Prop :=
  ∀ (i : Instr) (s t : State), exec i s = .next t → t.reg 0xF ≠ s.reg 0xF →
    (∃ x y, i = .addReg x y ∨ i = .sub x y ∨ i = .shr x y ∨ i = .subn x y ∨ i = .shl x y ∨ ∃ n, i = .drw x y n) ∨
    (∃ x, i = .addIVx x) ∨
    (∃ nn, i = .ldImm 0xF nn ∨ i = .addImm 0xF nn ∨ i = .rnd 0xF nn) ∨
    (∃ y, i = .ldReg 0xF y ∨ i = .or 0xF y ∨ i = .and 0xF y ∨ i = .xor 0xF y) ∨
    i = .ldVxDt 0xF ∨ i = .ldVxK 0xF ∨ i = .ldVxMem 0xF

/-- R29, R35: no instruction reads the sound timer, the redraw flag, the error latch or a read-out: two states that
differ there only are taken to states that differ there only. -/
def Obligations.NoInstructionReadsSoundTimerRedrawOrLatch : Prop :=
  ∀ (i : Instr) (s t t' : State) (b : Byte) (rd : Bool) (e : Option ErrorRecord) (r : Status), exec i s = .next t →
    exec i ((((s.setSt b).setRedraw rd).setErr e).setStatus r) = .next t' →
    UnchangedBut t t' [.st, .redraw, .err, .status]

/-! ### Display -/

/-- R120: clear-screen. -/
def Obligations.ClearScreenZeroesEveryCell : Prop :=
  decode 0x00E0 = .ok .cls ∧ ∀ s : State, ∃ t, exec .cls s = .next t ∧ (∀ c < 2048, t.fb.cell c = false) ∧
    t.redraw = true ∧ t.pc = s.pc + 2 ∧ UnchangedBut s t ([.pc, .redraw] ++ cellParts)

/-- R122, R123, R121: a sprite that fits XORs its set bits onto the framebuffer and sets VF exactly when one of them met
a set cell; I and memory stay. Zero rows and the origin's reading before VF is cleared are the spec's decisions D18, D19. -/
def Obligations.DrawSpriteXorsTheSpriteAndReportsCollision : Prop :=
  ∀ (x y : RegIdx) (n : BitVec 4) (s : State), decode (0xD#4 ++ x ++ y ++ n) = .ok (.drw x y n) ∧
    (s.SpriteFits x y n → ∃ t, exec (.drw x y n) s = .next t ∧
      (∀ c < 2048, t.fb.cell c = true ↔ ¬(s.fb.cell c = true ↔ s.SpriteCovers x y n c)) ∧
      ((t.reg 0xF = 1 ∧ ∃ c, s.SpriteCovers x y n c ∧ s.fb.cell c = true) ∨
        (t.reg 0xF = 0 ∧ ¬∃ c, s.SpriteCovers x y n c ∧ s.fb.cell c = true)) ∧
      t.redraw = true ∧ t.pc = s.pc + 2 ∧ UnchangedBut s t ([.pc, .reg 0xF, .redraw] ++ cellParts))

/-- R124, R303: a sprite that does not fit raises the first violation in loop order, row by row, each row's memory read
before its columns, and changes nothing else. Fatal and first-in-order are the spec's decisions D7 and D14. -/
def Obligations.DrawSpriteReportsTheFirstViolation : Prop :=
  ∀ (x y : RegIdx) (n : BitVec 4) (s : State) (r : Nat), r < n.toNat → (∀ d < r, s.RowFits x y d) →
    (0xFFF < s.base + r →
      exec (.drw x y n) s = .next (s.setErr (some (.outOfBounds s.pc .memory (s.base + r))))) ∧
    (∀ c < 8, s.base + r ≤ 0xFFF → (∀ d < c, s.spriteBit r d = true → s.spriteCell x y r d < 2048) →
      s.spriteBit r c = true → 2048 ≤ s.spriteCell x y r c →
      exec (.drw x y n) s = .next (s.setErr (some (.outOfBounds s.pc .framebuffer (s.spriteCell x y r c)))))

/-- R122, R125 (b): drawing a sprite twice at one place restores the framebuffer, and the second draw reports a collision
exactly when a set bit's cell was 0 before the first, so for a clear background exactly when the sprite has a set bit.
R125 (b) says the latter of every background; by R122 that fails where the first draw cleared the cell (assumption 11). -/
def Obligations.DrawingTwiceRestoresTheFramebuffer : Prop :=
  ∀ (x y : RegIdx) (n : BitVec 4) (s : State), x ≠ 0xF → y ≠ 0xF → s.SpriteFits x y n →
    ∃ t u, exec (.drw x y n) s = .next t ∧ exec (.drw x y n) t = .next u ∧
      (∀ c < 2048, u.fb.cell c = s.fb.cell c) ∧
      ((u.reg 0xF = 1 ∧ ∃ c, s.SpriteCovers x y n c ∧ s.fb.cell c = false) ∨
        (u.reg 0xF = 0 ∧ ¬∃ c, s.SpriteCovers x y n c ∧ s.fb.cell c = false))

/-! ### Control flow -/

/-- R141, R149: jump and jump-offset set pc and nothing else; a target above 0xFFE fails at the next fetch only; a jump
to its own address changes nothing. -/
def Obligations.JumpsSetPcAbsolutely : Prop :=
  ∀ (nnn : BitVec 12) (s : State),
    decode (0x1#4 ++ nnn) = .ok (.jp nnn) ∧ decode (0xB#4 ++ nnn) = .ok (.jpV0 nnn) ∧
    (∃ t, exec (.jp nnn) s = .next t ∧ t.pc.toNat = nnn.toNat ∧ UnchangedBut s t [.pc] ∧
      (nnn = 0xFFF → t.fetch = .error (.outOfBounds 0xFFF .fetch 0xFFF)) ∧ (t.pc = s.pc → t = s)) ∧
    (∃ t, exec (.jpV0 nnn) s = .next t ∧ t.pc.toNat = nnn.toNat + (s.reg 0).toNat ∧ UnchangedBut s t [.pc] ∧
      (0xFFE < t.pc.toNat → t.fetch = .error (.outOfBounds t.pc .fetch t.pc.toNat)))

/-- R142, R140: call pushes its own address and jumps, or overflows at 16 entries; return pops and continues two bytes
past the call, or underflows at none; a raise changes nothing else; a return right after a call lands two bytes past it. -/
def Obligations.CallAndReturnKeepTheStack : Prop :=
  ∀ (nnn : BitVec 12) (s : State),
    decode (0x2#4 ++ nnn) = .ok (.call nnn) ∧ decode 0x00EE = .ok .ret ∧
    (s.sp.val = 16 → exec (.call nnn) s = .next (s.setErr (some (.stackOverflow s.pc)))) ∧
    (∀ room : s.sp.val < 16, ∃ t, exec (.call nnn) s = .next t ∧ t.stack[s.sp.val] = s.pc ∧
      t.sp.val = s.sp.val + 1 ∧ t.pc.toNat = nnn.toNat ∧ UnchangedBut s t [.pc, .sp, .stack s.sp.val] ∧
      ∃ u, exec .ret t = .next u ∧ u.pc = s.pc + 2 ∧ u.sp = s.sp) ∧
    (s.sp.val = 0 → exec .ret s = .next (s.setErr (some (.stackUnderflow s.pc)))) ∧
    (∀ d : Fin 16, s.sp.val = d.val + 1 → ∃ t, exec .ret s = .next t ∧ t.sp.val = d.val ∧ t.pc = s.stack[d] + 2 ∧
      UnchangedBut s t [.pc, .sp])

/-- R143, R144: the skips that compare a register with the immediate; X = 0xF compares VF like any register. -/
def Obligations.ImmediateSkipsAdvanceByFourOrTwo : Prop :=
  ∀ (x : RegIdx) (nn : Byte) (s : State),
    decode (0x3#4 ++ x ++ nn) = .ok (.seImm x nn) ∧ decode (0x4#4 ++ x ++ nn) = .ok (.sneImm x nn) ∧
    (∃ t, exec (.seImm x nn) s = .next t ∧ t.pc = (if s.reg x = nn then s.pc + 4 else s.pc + 2) ∧
      UnchangedBut s t [.pc]) ∧
    (∃ t, exec (.sneImm x nn) s = .next t ∧ t.pc = (if s.reg x = nn then s.pc + 2 else s.pc + 4) ∧
      UnchangedBut s t [.pc])

/-- R145, R146: the skips that compare two registers; with X = Y the first always skips and the second never. That only
the words with low nibble 0 are these instructions is the spec's decision D4. -/
def Obligations.RegisterSkipsAdvanceByFourOrTwo : Prop :=
  ∀ (x y : RegIdx) (n : BitVec 4) (s : State),
    decode (0x5#4 ++ x ++ y ++ n) =
      (if n = 0 then .ok (.seReg x y) else .error (.unknownOpcode (0x5#4 ++ x ++ y ++ n))) ∧
    decode (0x9#4 ++ x ++ y ++ n) =
      (if n = 0 then .ok (.sneReg x y) else .error (.unknownOpcode (0x9#4 ++ x ++ y ++ n))) ∧
    (∃ t, exec (.seReg x y) s = .next t ∧ t.pc = (if s.reg x = s.reg y then s.pc + 4 else s.pc + 2) ∧
      UnchangedBut s t [.pc] ∧ (x = y → t.pc = s.pc + 4)) ∧
    (∃ t, exec (.sneReg x y) s = .next t ∧ t.pc = (if s.reg x = s.reg y then s.pc + 2 else s.pc + 4) ∧
      UnchangedBut s t [.pc] ∧ (x = y → t.pc = s.pc + 2))

/-! ### ALU -/

/-- R171, R172: set-imm and add-imm; neither writes a flag. -/
def Obligations.SetImmAndAddImmWriteOneRegister : Prop :=
  ∀ (x : RegIdx) (nn : Byte) (s : State),
    decode (0x6#4 ++ x ++ nn) = .ok (.ldImm x nn) ∧ decode (0x7#4 ++ x ++ nn) = .ok (.addImm x nn) ∧
    (∃ t, exec (.ldImm x nn) s = .next t ∧ t.reg x = nn ∧ t.pc = s.pc + 2 ∧ UnchangedBut s t [.pc, .reg x]) ∧
    (∃ t, exec (.addImm x nn) s = .next t ∧ (t.reg x).toNat = ((s.reg x).toNat + nn.toNat) % 256 ∧ t.pc = s.pc + 2 ∧
      UnchangedBut s t [.pc, .reg x])

/-- R173 to R176: set-reg, or, and, xor. That VF is left alone is the spec's decision D6. -/
def Obligations.CopyAndBitwiseWriteOneRegister : Prop :=
  ∀ (x y : RegIdx) (s : State),
    decode (0x8#4 ++ x ++ y ++ 0x0#4) = .ok (.ldReg x y) ∧ decode (0x8#4 ++ x ++ y ++ 0x1#4) = .ok (.or x y) ∧
    decode (0x8#4 ++ x ++ y ++ 0x2#4) = .ok (.and x y) ∧ decode (0x8#4 ++ x ++ y ++ 0x3#4) = .ok (.xor x y) ∧
    (∃ t, exec (.ldReg x y) s = .next t ∧ t.reg x = s.reg y ∧ t.pc = s.pc + 2 ∧ UnchangedBut s t [.pc, .reg x]) ∧
    (∃ t, exec (.or x y) s = .next t ∧ t.reg x = s.reg x ||| s.reg y ∧ t.pc = s.pc + 2 ∧
      UnchangedBut s t [.pc, .reg x]) ∧
    (∃ t, exec (.and x y) s = .next t ∧ t.reg x = s.reg x &&& s.reg y ∧ t.pc = s.pc + 2 ∧
      UnchangedBut s t [.pc, .reg x]) ∧
    (∃ t, exec (.xor x y) s = .next t ∧ t.reg x = s.reg x ^^^ s.reg y ∧ t.pc = s.pc + 2 ∧
      UnchangedBut s t [.pc, .reg x])

/-- R179, R178, R23: add-reg writes the carry, then the sum of the registers read after it, in all four cases of X and Y
being 0xF. The order is the spec's decision D5. -/
def Obligations.AddRegWritesCarryThenSum : Prop :=
  ∀ (x y : RegIdx) (s : State), decode (0x8#4 ++ x ++ y ++ 0x4#4) = .ok (.addReg x y) ∧
    ∃ t, exec (.addReg x y) s = .next t ∧ t.pc = s.pc + 2 ∧ UnchangedBut s t [.pc, .reg x, .reg 0xF] ∧
      let c := if (s.reg x).toNat + (s.reg y).toNat > 255 then 1 else 0
      (t.reg x).toNat = (if x = 0xF then if y = 0xF then 2 * c else (c + (s.reg y).toNat) % 256
        else if y = 0xF then ((s.reg x).toNat + c) % 256 else ((s.reg x).toNat + (s.reg y).toNat) % 256) ∧
      (x ≠ 0xF → (t.reg 0xF).toNat = c)

/-- R180, R182: sub-reg and sub-reg-reversed write NOT borrow, then the difference of the registers read after it, in all
four cases of X and Y being 0xF. The order is the spec's decision D5. -/
def Obligations.SubtractionsWriteNotBorrowThenDifference : Prop :=
  ∀ (x y : RegIdx) (s : State),
    decode (0x8#4 ++ x ++ y ++ 0x5#4) = .ok (.sub x y) ∧ decode (0x8#4 ++ x ++ y ++ 0x7#4) = .ok (.subn x y) ∧
    (∃ t, exec (.sub x y) s = .next t ∧ t.pc = s.pc + 2 ∧ UnchangedBut s t [.pc, .reg x, .reg 0xF] ∧
      let f := if (s.reg y).toNat > (s.reg x).toNat then 0 else 1
      (t.reg x).toNat = (if x = 0xF then if y = 0xF then 0 else (f + 256 - (s.reg y).toNat) % 256
        else if y = 0xF then ((s.reg x).toNat + 256 - f) % 256
        else ((s.reg x).toNat + 256 - (s.reg y).toNat) % 256) ∧
      (x ≠ 0xF → (t.reg 0xF).toNat = f)) ∧
    (∃ t, exec (.subn x y) s = .next t ∧ t.pc = s.pc + 2 ∧ UnchangedBut s t [.pc, .reg x, .reg 0xF] ∧
      let f := if (s.reg x).toNat > (s.reg y).toNat then 0 else 1
      (t.reg x).toNat = (if x = 0xF then if y = 0xF then 0 else ((s.reg y).toNat + 256 - f) % 256
        else if y = 0xF then (f + 256 - (s.reg x).toNat) % 256
        else ((s.reg y).toNat + 256 - (s.reg x).toNat) % 256) ∧
      (x ≠ 0xF → (t.reg 0xF).toNat = f))

/-- R181, R183: the shifts write the bit shifted out, then the shifted register read after it, and never use Y. The order
is the spec's decision D5, and ignoring V[Y] its decision D6. -/
def Obligations.ShiftsWriteTheBitShiftedOutThenTheResult : Prop :=
  ∀ (x y : RegIdx) (s : State),
    decode (0x8#4 ++ x ++ y ++ 0x6#4) = .ok (.shr x y) ∧ decode (0x8#4 ++ x ++ y ++ 0xE#4) = .ok (.shl x y) ∧
    (∃ t, exec (.shr x y) s = .next t ∧ t.pc = s.pc + 2 ∧ UnchangedBut s t [.pc, .reg x, .reg 0xF] ∧
      (t.reg x).toNat = (if x = 0xF then 0 else (s.reg x).toNat / 2) ∧
      (x ≠ 0xF → (t.reg 0xF).toNat = (s.reg x).toNat % 2) ∧ ∀ z, exec (.shr x z) s = .next t) ∧
    (∃ t, exec (.shl x y) s = .next t ∧ t.pc = s.pc + 2 ∧ UnchangedBut s t [.pc, .reg x, .reg 0xF] ∧
      (t.reg x).toNat =
        (if x = 0xF then 2 * ((s.reg x).toNat / 128) else 2 * (s.reg x).toNat % 256) ∧
      (x ≠ 0xF → (t.reg 0xF).toNat = (s.reg x).toNat / 128) ∧ ∀ z, exec (.shl x z) s = .next t)

/-- R184: rand-mask stores a byte masked by NN: the free byte of this draw, under no law (assumption 2, the spec's
decision D11). -/
def Obligations.RandMaskStoresAMaskedFreeByte : Prop :=
  ∀ (x : RegIdx) (nn : Byte) (s : State), decode (0xC#4 ++ x ++ nn) = .ok (.rnd x nn) ∧
    ∃ t, exec (.rnd x nn) s = .next t ∧ t.reg x = Config.randomByte s.draws &&& nn ∧ t.pc = s.pc + 2 ∧
      t.draws = s.draws + 1 ∧ UnchangedBut s t [.pc, .reg x, .draws] ∧
      (∀ b < 8, nn.getLsbD b = false → (t.reg x).getLsbD b = false)

/-- R185: set-imm and then 256 times add-imm of the same byte give the register that byte again, for every X, and leave
VF alone when X is another register. -/
def Obligations.RepeatedAddImmWrapsAround : Prop :=
  ∀ (x : RegIdx) (nn : Byte) (s : State),
    ∃ t, execAll (.ldImm x nn :: List.replicate 256 (.addImm x nn)) s = .next t ∧ t.reg x = nn ∧
      (x ≠ 0xF → t.reg 0xF = s.reg 0xF)

/-! ### Index and memory -/

/-- R200: set-index. -/
def Obligations.SetIndexLoadsTheAddress : Prop :=
  ∀ (nnn : BitVec 12) (s : State), decode (0xA#4 ++ nnn) = .ok (.ldI nnn) ∧
    ∃ t, exec (.ldI nnn) s = .next t ∧ t.I.toNat = nnn.toNat ∧ t.pc = s.pc + 2 ∧ UnchangedBut s t [.pc, .index]

/-- R201: add-to-index keeps 16 bits and reports a sum above 0xFFF in VF; with X = 0xF it adds the new flag. The order is
the spec's decision D5. -/
def Obligations.AddToIndexReportsOverflowThenAdds : Prop :=
  ∀ (x : RegIdx) (s : State), decode (0xF#4 ++ x ++ 0x1E#8) = .ok (.addIVx x) ∧
    ∃ t, exec (.addIVx x) s = .next t ∧ t.pc = s.pc + 2 ∧ UnchangedBut s t [.pc, .index, .reg 0xF] ∧
      let f := if s.I.toNat + (s.reg x).toNat > 0xFFF then 1 else 0
      (t.reg 0xF).toNat = f ∧
      t.I.toNat = (s.I.toNat + if x = 0xF then f else (s.reg x).toNat) % 65536

/-- R203: font-char-address; not masking V[X] is the spec's decision D28. -/
def Obligations.FontCharAddressIsFiveTimesTheRegister : Prop :=
  ∀ (x : RegIdx) (s : State), decode (0xF#4 ++ x ++ 0x29#8) = .ok (.ldFVx x) ∧
    ∃ t, exec (.ldFVx x) s = .next t ∧ t.I.toNat = 5 * (s.reg x).toNat ∧ t.pc = s.pc + 2 ∧
      UnchangedBut s t [.pc, .index]

/-- R204, R202: store-bcd writes the three digits at I, or raises the first address above 0xFFF and writes nothing (the
spec's decision D7). -/
def Obligations.StoreBcdWritesThreeDigits : Prop :=
  ∀ (x : RegIdx) (s : State), decode (0xF#4 ++ x ++ 0x33#8) = .ok (.ldBVx x) ∧
    (s.I.toNat + 2 ≤ 0xFFF → ∃ t, exec (.ldBVx x) s = .next t ∧
      (Memory.read t.mem s.I.toNat).toNat = (s.reg x).toNat / 100 ∧
      (Memory.read t.mem (s.I.toNat + 1)).toNat = (s.reg x).toNat / 10 % 10 ∧
      (Memory.read t.mem (s.I.toNat + 2)).toNat = (s.reg x).toNat % 10 ∧
      t.pc = s.pc + 2 ∧ UnchangedBut s t (.pc :: memParts s.I.toNat 3)) ∧
    (0xFFF < s.I.toNat + 2 →
      exec (.ldBVx x) s = .next (s.setErr (some (.outOfBounds s.pc .memory (max s.I.toNat 0x1000)))))

/-- R205, R202: reg-dump stores V0 to VX from I and moves I past them, or raises the first address above 0xFFF and
writes nothing (the spec's decision D7). -/
def Obligations.RegDumpStoresTheRegisters : Prop :=
  ∀ (x : RegIdx) (s : State), decode (0xF#4 ++ x ++ 0x55#8) = .ok (.ldMemVx x) ∧
    (s.I.toNat + x.toNat ≤ 0xFFF → ∃ t, exec (.ldMemVx x) s = .next t ∧
      (∀ k ≤ x.toNat, Memory.read t.mem (s.I.toNat + k) = s.reg (BitVec.ofNat 4 k)) ∧
      t.I.toNat = s.I.toNat + x.toNat + 1 ∧ t.pc = s.pc + 2 ∧
      UnchangedBut s t ([.pc, .index] ++ memParts s.I.toNat (x.toNat + 1))) ∧
    (0xFFF < s.I.toNat + x.toNat →
      exec (.ldMemVx x) s = .next (s.setErr (some (.outOfBounds s.pc .memory (max s.I.toNat 0x1000)))))

/-- R206, R202: reg-load reads V0 to VX from I and moves I past them, or raises the first address above 0xFFF and writes
nothing (the spec's decision D7). -/
def Obligations.RegLoadReadsTheRegisters : Prop :=
  ∀ (x : RegIdx) (s : State), decode (0xF#4 ++ x ++ 0x65#8) = .ok (.ldVxMem x) ∧
    (s.I.toNat + x.toNat ≤ 0xFFF → ∃ t, exec (.ldVxMem x) s = .next t ∧
      (∀ k ≤ x.toNat, t.reg (BitVec.ofNat 4 k) = Memory.read s.mem (s.I.toNat + k)) ∧
      t.I.toNat = s.I.toNat + x.toNat + 1 ∧ t.pc = s.pc + 2 ∧
      UnchangedBut s t ([.pc, .index] ++ regParts x)) ∧
    (0xFFF < s.I.toNat + x.toNat →
      exec (.ldVxMem x) s = .next (s.setErr (some (.outOfBounds s.pc .memory (max s.I.toNat 0x1000)))))

/-- R207: store-bcd and then reg-load of three bytes from the same I give digits of the stored value. -/
def Obligations.BcdDigitsLoadBackToTheValue : Prop :=
  ∀ (x : RegIdx) (s : State), s.I.toNat + 2 ≤ 0xFFF →
    ∃ t u, exec (.ldBVx x) s = .next t ∧ exec (.ldVxMem 2) t = .next u ∧
      100 * (u.reg 0).toNat + 10 * (u.reg 1).toNat + (u.reg 2).toNat = (s.reg x).toNat ∧
      (u.reg 0).toNat ≤ 2 ∧ (u.reg 1).toNat ≤ 9 ∧ (u.reg 2).toNat ≤ 9

/-- R64, R53: what reg-dump stores is what the very next fetch reads, at any pc. -/
def Obligations.StoredBytesAreFetchedAtOnce : Prop :=
  ∀ (x : RegIdx) (s : State) (p : Word), s.I.toNat + x.toNat ≤ 0xFFF → p.toNat ≤ 0xFFE →
    let byteAfter := fun a => if s.I.toNat ≤ a ∧ a ≤ s.I.toNat + x.toNat then s.reg (BitVec.ofNat 4 (a - s.I.toNat))
      else Memory.read s.mem a
    ∃ t, exec (.ldMemVx x) s = .next t ∧
      (t.setPc p).fetch = .ok (opcodeOfBytes (byteAfter p.toNat) (byteAfter (p.toNat + 1)))

/-! ### Input -/

/-- R231, R232, R230: the key skips test the key V[X] names; a key number above 15 raises and changes nothing else (the
spec's decision D7). -/
def Obligations.KeySkipsTestTheNamedKey : Prop :=
  ∀ (x : RegIdx) (s : State),
    decode (0xE#4 ++ x ++ 0x9E#8) = .ok (.skp x) ∧ decode (0xE#4 ++ x ++ 0xA1#8) = .ok (.sknp x) ∧
    (∀ k : Fin 16, (s.reg x).toNat = k.val →
      (∃ t, exec (.skp x) s = .next t ∧ t.pc = (if s.key[k] = true then s.pc + 4 else s.pc + 2) ∧
        UnchangedBut s t [.pc]) ∧
      (∃ t, exec (.sknp x) s = .next t ∧ t.pc = (if s.key[k] = true then s.pc + 2 else s.pc + 4) ∧
        UnchangedBut s t [.pc])) ∧
    (15 < (s.reg x).toNat →
      exec (.skp x) s = .next (s.setErr (some (.outOfBounds s.pc .key (s.reg x).toNat))) ∧
      exec (.sknp x) s = .next (s.setErr (some (.outOfBounds s.pc .key (s.reg x).toNat))))

/-- R233: wait-key stores the highest pressed key and advances, or, with no key pressed, changes nothing at all. The
tie-break is the spec's decision D16. -/
def Obligations.WaitKeyTakesTheHighestPressedKey : Prop :=
  ∀ (x : RegIdx) (s : State), decode (0xF#4 ++ x ++ 0x0A#8) = .ok (.ldVxK x) ∧
    ((∀ k < 16, s.keyAt k = false) → exec (.ldVxK x) s = .next s) ∧
    (∀ k < 16, s.keyAt k = true → (∀ j < 16, k < j → s.keyAt j = false) →
      ∃ t, exec (.ldVxK x) s = .next t ∧ (t.reg x).toNat = k ∧ t.pc = s.pc + 2 ∧ UnchangedBut s t [.pc, .reg x])

/-- R234, R358 (c): a waiting machine stays as it is over any number of steps; one key press ends the wait at the next
step. Naming that state is the spec's decision D32. -/
def Obligations.WaitingLastsUntilAKeyIsPressed : Prop :=
  ∀ s : State, s.Waiting →
    (∀ n, ∃ t, core.run n s = .next t ∧ UnchangedBut s t [.status]) ∧
    (∀ (k : Fin 16) (x : RegIdx), s.Fetches (.ldVxK x) →
      ∃ t, step (s.setKey k true) = .next t ∧ (t.reg x).toNat = k.val ∧ t.pc = s.pc + 2)

/-- R358 (b), R141: a parked machine stays as it is over any number of steps. Naming that state is the spec's decision
D32. -/
def Obligations.ParkedStaysParked : Prop :=
  ∀ s : State, s.Parked → ∀ n, ∃ t, core.run n s = .next t ∧ UnchangedBut s t [.status]

/-! ### Timers -/

/-- R250, R252: get-delay and set-delay; reading leaves the delay timer alone, and a delay set to 0 stays 0 over the next
tick. -/
def Obligations.DelayTimerInstructionsMoveOneByte : Prop :=
  ∀ (x : RegIdx) (s : State),
    decode (0xF#4 ++ x ++ 0x07#8) = .ok (.ldVxDt x) ∧ decode (0xF#4 ++ x ++ 0x15#8) = .ok (.ldDtVx x) ∧
    (∃ t, exec (.ldVxDt x) s = .next t ∧ t.reg x = s.dt ∧ t.pc = s.pc + 2 ∧ UnchangedBut s t [.pc, .reg x]) ∧
    (∃ t, exec (.ldDtVx x) s = .next t ∧ t.dt = s.reg x ∧ t.pc = s.pc + 2 ∧ UnchangedBut s t [.pc, .dt] ∧
      (s.reg x = 0 → t.tick.dt = 0))

/-- R253: set-sound; a sound timer of 1 makes the next tick audible with a beep. Which of the source's two signals a tick
gives is the spec's decision D15. -/
def Obligations.SetSoundLoadsTheSoundTimer : Prop :=
  ∀ (x : RegIdx) (s : State), decode (0xF#4 ++ x ++ 0x18#8) = .ok (.ldStVx x) ∧
    ∃ t, exec (.ldStVx x) s = .next t ∧ t.st = s.reg x ∧ t.pc = s.pc + 2 ∧ UnchangedBut s t [.pc, .st] ∧
      (s.reg x = 1 → t.tick.audible = true ∧ t.tick.beep = true)

/-- R254: tick counts both timers down, clamped at zero, and answers audible and beep from the sound timer before it; it
reads and writes nothing else. Both outputs are the spec's decision D15; keeping them in the state is assumption 3. -/
def Obligations.TickCountsBothTimersDown : Prop :=
  (∀ s : State, s.tick.dt.toNat = s.dt.toNat - 1 ∧ s.tick.st.toNat = s.st.toNat - 1 ∧
    (s.tick.audible = true ↔ 0 < s.st.toNat) ∧ (s.tick.beep = true ↔ s.st.toNat = 1) ∧
    UnchangedBut s s.tick [.dt, .st, .audible, .beep]) ∧
  (∀ s s' : State, s.dt = s'.dt → s.st = s'.st → s.tick.dt = s'.tick.dt ∧ s.tick.st = s'.tick.st ∧
    s.tick.audible = s'.tick.audible ∧ s.tick.beep = s'.tick.beep)

/-! ### The other transactions -/

/-- R353: load copies the image to 0x200 and changes nothing else; that it does not reset is the spec's decision D21. -/
def Obligations.LoadCopiesTheImage : Prop :=
  ∀ (bytes : List Byte) (s : State), bytes.length ≤ 3584 →
    (∀ (k : Nat) (h : k < bytes.length), Memory.read (s.load bytes).mem (0x200 + k) = bytes[k]) ∧
    (s.load bytes).status = .ok ∧ UnchangedBut s (s.load bytes) (.status :: memParts 0x200 bytes.length)

/-- R354: an image of more than 3584 bytes writes nothing and latches a LoadError with its length, so that the next
step is HALTED, and a reset right after the load clears it; one of 3584 bytes or fewer raises nothing. That every step
is HALTED while an error is latched is LatchedErrorHaltsEveryStepUntilReset. The latch is the spec's decision D12. -/
def Obligations.OversizedImageLatchesALoadError : Prop :=
  ∀ (bytes : List Byte) (s : State), s.err = none →
    (3584 < bytes.length →
      (s.load bytes).err = some (.loadError bytes.length) ∧ (s.load bytes).status = .fatal (.loadError bytes.length) ∧
      UnchangedBut s (s.load bytes) [.err, .status] ∧
      (∀ rnd, stepWith rnd (s.load bytes) = .next ((s.load bytes).setStatus (.halted (.loadError bytes.length)))) ∧
      (s.load bytes).doReset.err = none) ∧
    (bytes.length ≤ 3584 → (s.load bytes).err = none ∧ (s.load bytes).status = .ok)

/-- R356, R357: set_key and clear_redraw change one element each. -/
def Obligations.SetKeyAndClearRedrawChangeOneElement : Prop :=
  ∀ (k : Fin 16) (b : Bool) (s : State),
    (perform (.setKey k b) s = .next (s.setKey k b) ∧ (s.setKey k b).key[k] = b ∧
      UnchangedBut s (s.setKey k b) [.key k.val]) ∧
    (perform .clearRedraw s = .next s.clearRedraw ∧ s.clearRedraw.redraw = false ∧
      UnchangedBut s s.clearRedraw [.redraw])

/-- R350: reset does not depend on the state before it, in any element the spec gives the machine; only the model's own
count of random bytes goes on (assumption 2). That reset also sets the read-outs status, audible and beep, to ok, false
and false, is the model's choice (assumption 3). -/
def Obligations.ResetForgetsTheStateBefore : Prop :=
  ∀ s : State, perform .reset s = .next s.doReset ∧ UnchangedBut State.reset s.doReset [.draws] ∧
    s.doReset.draws = s.draws

/-- R102, R105 and the model's own placing of a word (assumption 12): whatever the state, the word placed is what the
next step fetches, with no error latched. -/
def Obligations.PlacedWordIsFetchedNext : Prop :=
  ∀ (s : State) (op : Word),
    (s.withFetchWord 16 op.toNat).err = none ∧ (s.withFetchWord 16 op.toNat).fetch = .ok op ∧
    (s.err = none → s.pc.toNat ≤ 0xFFE →
      UnchangedBut s (s.withFetchWord 16 op.toNat) (memParts s.pc.toNat 2))
end

