-- ==== Sys2Proof/Laws/Decode.lean ====
section
/-! SUPPORT. The fields of a word put together from fields, and a word put together again from its own fields
(spec/30_encoding.md R71, R74). -/

namespace Sys2Proof

variable (a x y n : BitVec 4) (nn : BitVec 8) (nnn : BitVec 12) (op : Word)

@[simp] theorem fieldF_nnn : fieldF (a ++ nnn) = a := by
  apply BitVec.eq_of_toNat_eq
  simp only [fieldF, BitVec.extractLsb'_toNat, BitVec.toNat_append, Nat.shiftRight_eq_div_pow]
  rw [← Nat.shiftLeft_add_eq_or_of_lt nnn.isLt]
  simp only [Nat.shiftLeft_eq]
  omega

@[simp] theorem fieldNNN_nnn : fieldNNN (a ++ nnn) = nnn := by
  apply BitVec.eq_of_toNat_eq
  simp only [fieldNNN, BitVec.extractLsb'_toNat, BitVec.toNat_append, Nat.shiftRight_eq_div_pow]
  rw [← Nat.shiftLeft_add_eq_or_of_lt nnn.isLt]
  simp only [Nat.shiftLeft_eq]
  omega

@[simp] theorem fieldF_xnn : fieldF (a ++ x ++ nn) = a := by
  apply BitVec.eq_of_toNat_eq
  simp only [fieldF, BitVec.extractLsb'_toNat, BitVec.toNat_append, Nat.shiftRight_eq_div_pow]
  rw [← Nat.shiftLeft_add_eq_or_of_lt nn.isLt, ← Nat.shiftLeft_add_eq_or_of_lt x.isLt]
  simp only [Nat.shiftLeft_eq]
  omega

@[simp] theorem fieldX_xnn : fieldX (a ++ x ++ nn) = x := by
  apply BitVec.eq_of_toNat_eq
  simp only [fieldX, BitVec.extractLsb'_toNat, BitVec.toNat_append, Nat.shiftRight_eq_div_pow]
  rw [← Nat.shiftLeft_add_eq_or_of_lt nn.isLt, ← Nat.shiftLeft_add_eq_or_of_lt x.isLt]
  simp only [Nat.shiftLeft_eq]
  omega

@[simp] theorem fieldNN_xnn : fieldNN (a ++ x ++ nn) = nn := by
  apply BitVec.eq_of_toNat_eq
  simp only [fieldNN, BitVec.extractLsb'_toNat, BitVec.toNat_append, Nat.shiftRight_eq_div_pow]
  rw [← Nat.shiftLeft_add_eq_or_of_lt nn.isLt, ← Nat.shiftLeft_add_eq_or_of_lt x.isLt]
  simp only [Nat.shiftLeft_eq]
  omega

@[simp] theorem fieldF_xyn : fieldF (a ++ x ++ y ++ n) = a := by
  apply BitVec.eq_of_toNat_eq
  simp only [fieldF, BitVec.extractLsb'_toNat, BitVec.toNat_append, Nat.shiftRight_eq_div_pow]
  rw [← Nat.shiftLeft_add_eq_or_of_lt n.isLt, ← Nat.shiftLeft_add_eq_or_of_lt y.isLt,
    ← Nat.shiftLeft_add_eq_or_of_lt x.isLt]
  simp only [Nat.shiftLeft_eq]
  omega

@[simp] theorem fieldX_xyn : fieldX (a ++ x ++ y ++ n) = x := by
  apply BitVec.eq_of_toNat_eq
  simp only [fieldX, BitVec.extractLsb'_toNat, BitVec.toNat_append, Nat.shiftRight_eq_div_pow]
  rw [← Nat.shiftLeft_add_eq_or_of_lt n.isLt, ← Nat.shiftLeft_add_eq_or_of_lt y.isLt,
    ← Nat.shiftLeft_add_eq_or_of_lt x.isLt]
  simp only [Nat.shiftLeft_eq]
  omega

@[simp] theorem fieldY_xyn : fieldY (a ++ x ++ y ++ n) = y := by
  apply BitVec.eq_of_toNat_eq
  simp only [fieldY, BitVec.extractLsb'_toNat, BitVec.toNat_append, Nat.shiftRight_eq_div_pow]
  rw [← Nat.shiftLeft_add_eq_or_of_lt n.isLt, ← Nat.shiftLeft_add_eq_or_of_lt y.isLt,
    ← Nat.shiftLeft_add_eq_or_of_lt x.isLt]
  simp only [Nat.shiftLeft_eq]
  omega

@[simp] theorem fieldN_xyn : fieldN (a ++ x ++ y ++ n) = n := by
  apply BitVec.eq_of_toNat_eq
  simp only [fieldN, BitVec.extractLsb'_toNat, BitVec.toNat_append, Nat.shiftRight_eq_div_pow]
  rw [← Nat.shiftLeft_add_eq_or_of_lt n.isLt, ← Nat.shiftLeft_add_eq_or_of_lt y.isLt,
    ← Nat.shiftLeft_add_eq_or_of_lt x.isLt]
  simp only [Nat.shiftLeft_eq]
  omega

/-- A word is its fields side by side. -/
theorem append_nnn : fieldF op ++ fieldNNN op = op := by
  apply BitVec.eq_of_toNat_eq
  simp only [BitVec.toNat_append]
  rw [← Nat.shiftLeft_add_eq_or_of_lt (BitVec.isLt _)]
  simp only [fieldF, fieldNNN, BitVec.extractLsb'_toNat, Nat.shiftRight_eq_div_pow, Nat.shiftLeft_eq]
  have := op.isLt
  omega

/-- A word is its fields side by side. -/
theorem append_xnn : fieldF op ++ fieldX op ++ fieldNN op = op := by
  apply BitVec.eq_of_toNat_eq
  simp only [BitVec.toNat_append]
  rw [← Nat.shiftLeft_add_eq_or_of_lt (BitVec.isLt _), ← Nat.shiftLeft_add_eq_or_of_lt (BitVec.isLt _)]
  simp only [fieldF, fieldX, fieldNN, BitVec.extractLsb'_toNat, Nat.shiftRight_eq_div_pow, Nat.shiftLeft_eq]
  have := op.isLt
  omega

/-- A word is its fields side by side. -/
theorem append_xyn : fieldF op ++ fieldX op ++ fieldY op ++ fieldN op = op := by
  apply BitVec.eq_of_toNat_eq
  simp only [BitVec.toNat_append]
  rw [← Nat.shiftLeft_add_eq_or_of_lt (BitVec.isLt _), ← Nat.shiftLeft_add_eq_or_of_lt (BitVec.isLt _),
    ← Nat.shiftLeft_add_eq_or_of_lt (BitVec.isLt _)]
  simp only [fieldF, fieldX, fieldY, fieldN, BitVec.extractLsb'_toNat, Nat.shiftRight_eq_div_pow, Nat.shiftLeft_eq]
  have := op.isLt
  omega

/-- The last pattern of `decode` is family 0xF: a nibble that is none of the first fifteen is the sixteenth. -/
theorem nibble_eq_F (h : ∀ k : Fin 15, a ≠ BitVec.ofNat 4 k.val) : a = 0xF := by
  apply BitVec.eq_of_toNat_eq
  have := a.isLt
  by_contra ne
  have lt : a.toNat < 15 := by
    have : a.toNat ≠ 15 := ne
    omega
  exact h ⟨a.toNat, lt⟩ (by simp)

/-- The two bytes of a word in memory order give the word back (R52). -/
@[simp] theorem opcodeOfBytes_bytesOfOpcode : opcodeOfBytes (bytesOfOpcode op).1 (bytesOfOpcode op).2 = op := by
  apply BitVec.eq_of_toNat_eq
  simp only [opcodeOfBytes, bytesOfOpcode, BitVec.toNat_append]
  rw [← Nat.shiftLeft_add_eq_or_of_lt (BitVec.isLt _)]
  simp only [BitVec.extractLsb'_toNat, Nat.shiftRight_eq_div_pow, Nat.shiftLeft_eq]
  have := op.isLt
  omega

/-- The opcode's value is `hi * 256 + lo` (R102). -/
theorem toNat_opcodeOfBytes (hi lo : Byte) : (opcodeOfBytes hi lo).toNat = hi.toNat * 256 + lo.toNat := by
  simp only [opcodeOfBytes, BitVec.toNat_append]
  rw [← Nat.shiftLeft_add_eq_or_of_lt (BitVec.isLt _), Nat.shiftLeft_eq]

/-- Words of the same two widths are equal side by side exactly when they are equal one by one. -/
theorem append_eq_append_iff {n m : Nat} {a a' : BitVec n} {b b' : BitVec m} : a ++ b = a' ++ b' ↔ a = a' ∧ b = b' := by
  refine ⟨fun h => ?_, fun h => by rw [h.1, h.2]⟩
  have low : ∀ i, i < m → b.getLsbD i = b'.getLsbD i := fun i hi => by
    simpa [BitVec.getLsbD_append, hi] using congrArg (fun w => w.getLsbD i) h
  have high : ∀ i, i < n → a.getLsbD i = a'.getLsbD i := fun i hi => by
    simpa [BitVec.getLsbD_append] using congrArg (fun w => w.getLsbD (i + m)) h
  exact ⟨BitVec.eq_of_getLsbD_eq high, BitVec.eq_of_getLsbD_eq low⟩

/-- A family pattern tests the family nibble (R75, R76). -/
theorem and_familyMask {op : Word} {a : BitVec 4} : op &&& 0xF000 = a ++ 0#12 ↔ fieldF op = a := by
  conv_lhs => rw [← append_nnn (op := op), show (0xF000 : Word) = 0xF#4 ++ 0x000#12 from rfl, BitVec.and_append,
    append_eq_append_iff]
  have : fieldF op &&& 0xF#4 = fieldF op := BitVec.and_allOnes (x := fieldF op)
  simp [this]

/-- A register pattern tests the family nibble and the low nibble (R75, R77). -/
theorem and_registerMask {op : Word} {a n : BitVec 4} : op &&& 0xF00F = a ++ 0#4 ++ 0#4 ++ n ↔ fieldF op = a ∧ fieldN op = n := by
  conv_lhs => rw [← append_xyn (op := op), show (0xF00F : Word) = 0xF#4 ++ 0x0#4 ++ 0x0#4 ++ 0xF#4 from rfl,
    BitVec.and_append, BitVec.and_append, BitVec.and_append, append_eq_append_iff, append_eq_append_iff,
    append_eq_append_iff]
  have h : ∀ w : BitVec 4, w &&& 0xF#4 = w := fun w => BitVec.and_allOnes (x := w)
  simp [h]

/-- A sub-code pattern tests the family nibble and the low byte (R78). -/
theorem and_subCodeMask {op : Word} {a : BitVec 4} {kk : Byte} : op &&& 0xF0FF = a ++ 0#4 ++ kk ↔ fieldF op = a ∧ fieldNN op = kk := by
  conv_lhs => rw [← append_xnn (op := op), show (0xF0FF : Word) = 0xF#4 ++ 0x0#4 ++ 0xFF#8 from rfl,
    BitVec.and_append, BitVec.and_append, append_eq_append_iff, append_eq_append_iff]
  have h : fieldF op &&& 0xF#4 = fieldF op := BitVec.and_allOnes (x := fieldF op)
  have h' : fieldNN op &&& 0xFF#8 = fieldNN op := BitVec.and_allOnes (x := fieldNN op)
  simp [h, h']

end Sys2Proof
end

