-- ==== Sys2Proof/Laws/Display.lean ====
section
/-! SUPPORT. What drawing does: one cell toggled, a row of columns, and all rows of a sprite, with the first violation
when one does not fit (spec/41_display.md R121 to R124). -/

namespace Sys2Proof.Machine

/-- Toggling a cell flips it and no other (R122). -/
theorem Framebuffer.cell_toggle (fb : Framebuffer) {t : Nat} (h : t < 2048) (c : Nat) :
    (fb.toggle t).cell c = (fb.cell c ^^ decide (t = c)) := by
  have ht : t / 64 < 32 := by omega
  simp only [Framebuffer.cell, Framebuffer.toggle, Config.fbWidth, ht, dite_true]
  split
  · next hc =>
    rw [Vector.getElem_set]
    split
    · next e =>
      have e' : fb[t / 64] = fb[c / 64] := by congr 1
      rw [BitVec.getLsbD_xor, BitVec.getLsbD_twoPow, e']
      congr 1
      have : c % 64 < 64 := by omega
      simp [decide_eq_decide, Nat.mod_lt]
      omega
    · next e =>
      have : t ≠ c := fun h => e (by rw [h])
      simp [this]
  · next hc =>
    have : t ≠ c := by omega
    simp [this]

/-- No cell is set after a clear (R120). -/
@[simp] theorem Framebuffer.cell_clear (c : Nat) : Framebuffer.clear.cell c = false := by
  simp only [Framebuffer.cell, Framebuffer.clear]
  split <;> simp

/-- The pairs (row, column) of a sprite map to distinct cells (R122 (c)). -/
theorem spriteCell_inj {ox oy r r' c c' : Nat} (hc : c < 8) (hc' : c' < 8)
    (h : spriteCell ox oy r c = spriteCell ox oy r' c') : r = r' ∧ c = c' := by
  simp only [spriteCell, Config.fbWidth] at h
  omega

theorem any_congr_mem {l : List Nat} {p q : Nat → Bool} (h : ∀ a ∈ l, p a = q a) : l.any p = l.any q := by
  induction l with
  | nil => rfl
  | cons a l ih =>
    rw [List.any_cons, List.any_cons, h a List.mem_cons_self, ih fun b hb => h b (List.mem_cons_of_mem a hb)]

/-- A set bit among the columns targets the cell. -/
def columnsCover (ox oy r : Nat) (row : Byte) (cs : List Nat) (cell : Nat) : Bool :=
  cs.any fun c => spriteBit row c && decide (spriteCell ox oy r c = cell)

/-- A set bit among the columns targets a set cell. -/
def columnsHit (ox oy r : Nat) (row : Byte) (cs : List Nat) (fb : Framebuffer) : Bool :=
  cs.any fun c => spriteBit row c && fb.cell (spriteCell ox oy r c)

theorem columnsCover_same_row {ox oy r : Nat} {row : Byte} {cs : List Nat} {c : Nat} (hc : c < 8) (hcs : ∀ d ∈ cs, d < 8)
    (h : c ∉ cs) : columnsCover ox oy r row cs (spriteCell ox oy r c) = false := by
  simp only [columnsCover, List.any_eq_false, Bool.and_eq_true, decide_eq_true_eq, not_and]
  intro d hd _ e
  exact h ((spriteCell_inj (hcs d hd) hc e).2 ▸ hd)

theorem columnsCover_other_row {ox oy r r' : Nat} {row : Byte} {cs : List Nat} {c : Nat} (hc : c < 8)
    (hcs : ∀ d ∈ cs, d < 8) (h : r ≠ r') : columnsCover ox oy r row cs (spriteCell ox oy r' c) = false := by
  simp only [columnsCover, List.any_eq_false, Bool.and_eq_true, decide_eq_true_eq, not_and]
  intro d hd _ e
  exact h (spriteCell_inj (hcs d hd) hc e).1

/-- The columns of a row whose set bits are all in range: every covered cell flips, and the flag records the set cells
among them (R122, R123). -/
theorem drawColumns_ok (ox oy r : Nat) (row : Byte) : ∀ (cs : List Nat) (k : Canvas), cs.Nodup → (∀ c ∈ cs, c < 8) →
    (∀ c ∈ cs, spriteBit row c = true → spriteCell ox oy r c < 2048) →
    ∃ fb, drawColumns ox oy r row cs k = .ok (fb, k.2 || columnsHit ox oy r row cs k.1) ∧
      ∀ cell, fb.cell cell = (k.1.cell cell ^^ columnsCover ox oy r row cs cell) := by
  intro cs
  induction cs with
  | nil => intro k _ _ _; exact ⟨k.1, by simp [drawColumns, columnsHit], by simp [columnsCover]⟩
  | cons c cs ih =>
    intro k nd lt fit
    rw [List.nodup_cons] at nd
    have lt' := fun d hd => lt d (List.mem_cons_of_mem c hd)
    have fit' := fun d hd => fit d (List.mem_cons_of_mem c hd)
    have hc := lt c List.mem_cons_self
    by_cases bit : spriteBit row c = true
    · have inb := fit c List.mem_cons_self bit
      obtain ⟨fb, e, hcell⟩ := ih (k.1.toggle (spriteCell ox oy r c), k.2 || k.1.cell (spriteCell ox oy r c)) nd.2 lt' fit'
      refine ⟨fb, ?_, ?_⟩
      · simp only [drawColumns, bit, inb, Config.fbCells, if_true, e]
        congr 2
        simp only [columnsHit, List.any_cons, bit, Bool.true_and, Bool.or_assoc]
        congr 2
        refine any_congr_mem fun d hd => ?_
        rw [Framebuffer.cell_toggle _ inb]
        have : spriteCell ox oy r c ≠ spriteCell ox oy r d := fun e => nd.1 ((spriteCell_inj hc (lt' d hd) e).2 ▸ hd)
        simp [this]
      · intro cell
        rw [hcell, Framebuffer.cell_toggle _ inb]
        simp only [columnsCover, List.any_cons, bit, Bool.true_and]
        by_cases e : spriteCell ox oy r c = cell
        · subst e
          have := columnsCover_same_row (ox := ox) (oy := oy) (r := r) (row := row) hc lt' nd.1
          simp only [columnsCover] at this
          simp [this]
        · simp [e]
    · obtain ⟨fb, e, hcell⟩ := ih k nd.2 lt' fit'
      exact ⟨fb, by simpa [drawColumns, bit, columnsHit] using e, by simpa [columnsCover, bit] using hcell⟩

/-- The first set bit out of range ends the row with its cell (R124). -/
theorem drawColumns_error (ox oy r : Nat) (row : Byte) (c : Nat) (rest : List Nat) : ∀ (cs : List Nat) (k : Canvas),
    (∀ d ∈ cs, spriteBit row d = true → spriteCell ox oy r d < 2048) → spriteBit row c = true →
    2048 ≤ spriteCell ox oy r c → drawColumns ox oy r row (cs ++ c :: rest) k = .error (spriteCell ox oy r c) := by
  intro cs
  induction cs with
  | nil => intro k _ bit out; simp [drawColumns, bit, Nat.not_lt.mpr out]
  | cons d cs ih =>
    intro k fit bit out
    have fit' := fun e he => fit e (List.mem_cons_of_mem d he)
    by_cases b : spriteBit row d = true
    · simp [drawColumns, b, fit d List.mem_cons_self b, ih _ fit' bit out]
    · simp [drawColumns, b, ih _ fit' bit out]

/-- A set bit among the rows targets the cell. -/
def rowsCover (m : Memory) (base ox oy : Nat) (rs : List Nat) (cell : Nat) : Bool :=
  rs.any fun r => columnsCover ox oy r (Memory.read m (base + r)) (List.range 8) cell

/-- A set bit among the rows targets a set cell. -/
def rowsHit (m : Memory) (base ox oy : Nat) (rs : List Nat) (fb : Framebuffer) : Bool :=
  rs.any fun r => columnsHit ox oy r (Memory.read m (base + r)) (List.range 8) fb

/-- A row is in memory and each of its set bits has a cell. -/
def rowFits (m : Memory) (base ox oy r : Nat) : Prop :=
  base + r ≤ 0xFFF ∧ ∀ c < 8, spriteBit (Memory.read m (base + r)) c = true → spriteCell ox oy r c < 2048

theorem drawColumns_range_ok {m : Memory} {base ox oy r : Nat} (k : Canvas) (fit : rowFits m base ox oy r) :
    ∃ fb, drawColumns ox oy r (Memory.read m (base + r)) (List.range 8) k =
        .ok (fb, k.2 || columnsHit ox oy r (Memory.read m (base + r)) (List.range 8) k.1) ∧
      ∀ cell, fb.cell cell = (k.1.cell cell ^^ columnsCover ox oy r (Memory.read m (base + r)) (List.range 8) cell) :=
  drawColumns_ok ox oy r _ _ k List.nodup_range (by simp) (by simpa using fit.2)

/-- A sprite that fits: every covered cell flips, and the flag records whether one of them was set (R122, R123). -/
theorem drawRows_ok (m : Memory) (base ox oy : Nat) : ∀ (rs : List Nat) (k : Canvas), rs.Nodup →
    (∀ r ∈ rs, rowFits m base ox oy r) →
    ∃ fb, drawRows m base ox oy rs k = .ok (fb, k.2 || rowsHit m base ox oy rs k.1) ∧
      ∀ cell, fb.cell cell = (k.1.cell cell ^^ rowsCover m base ox oy rs cell) := by
  intro rs
  induction rs with
  | nil => intro k _ _; exact ⟨k.1, by simp [drawRows, rowsHit], by simp [rowsCover]⟩
  | cons r rs ih =>
    intro k nd fit
    rw [List.nodup_cons] at nd
    have fr := fit r List.mem_cons_self
    obtain ⟨fb1, e1, h1⟩ := drawColumns_range_ok k fr
    obtain ⟨fb, e, h⟩ := ih (fb1, k.2 || columnsHit ox oy r (Memory.read m (base + r)) (List.range 8) k.1) nd.2
      (fun r' h' => fit r' (List.mem_cons_of_mem r h'))
    refine ⟨fb, ?_, ?_⟩
    · simp only [drawRows, Config.addrMax, gt_iff_lt, Nat.not_lt.mpr fr.1, if_false, e1, e]
      congr 2
      simp only [rowsHit, List.any_cons, Bool.or_assoc]
      congr 2
      refine any_congr_mem fun r' hr' => ?_
      have ne : r ≠ r' := fun e => nd.1 (e ▸ hr')
      refine any_congr_mem fun c hc => ?_
      rw [h1, columnsCover_other_row (List.mem_range.mp hc) (by simp) ne, Bool.xor_false]
    · intro cell
      rw [h, h1]
      simp only [rowsCover, List.any_cons]
      by_cases cov : columnsCover ox oy r (Memory.read m (base + r)) (List.range 8) cell = true
      · have : (rs.any fun r' => columnsCover ox oy r' (Memory.read m (base + r')) (List.range 8) cell) = false := by
          simp only [List.any_eq_false]
          intro r' hr'
          simp only [columnsCover, List.any_eq_true, Bool.and_eq_true, decide_eq_true_eq, List.mem_range] at cov
          obtain ⟨c, hc, -, rfl⟩ := cov
          have ne : r' ≠ r := fun e => nd.1 (e ▸ hr')
          simp [columnsCover_other_row hc _ ne]
        simp [cov, this]
      · simp [cov]

/-- The rows before a violation change nothing of the report: the first row out of memory is reported (R124). -/
theorem drawRows_memory_error (m : Memory) (base ox oy r : Nat) (rest : List Nat) : ∀ (rs : List Nat) (k : Canvas),
    (∀ d ∈ rs, rowFits m base ox oy d) → 0xFFF < base + r →
    drawRows m base ox oy (rs ++ r :: rest) k = .error (.memory, base + r) := by
  intro rs
  induction rs with
  | nil => intro k _ out; simp [drawRows, out]
  | cons d rs ih =>
    intro k fit out
    have fd := fit d List.mem_cons_self
    obtain ⟨fb, e, -⟩ := drawColumns_range_ok k fd
    simp only [List.cons_append, drawRows, Config.addrMax, gt_iff_lt, Nat.not_lt.mpr fd.1, if_false, e]
    exact ih _ (fun d' h' => fit d' (List.mem_cons_of_mem d h')) out

/-- The first set bit without a cell is reported, rows before it fitting (R124). -/
theorem drawRows_cell_error (m : Memory) (base ox oy r c : Nat) (rest : List Nat) : ∀ (rs : List Nat) (k : Canvas),
    (∀ d ∈ rs, rowFits m base ox oy d) → base + r ≤ 0xFFF → c < 8 →
    (∀ d < c, spriteBit (Memory.read m (base + r)) d = true → spriteCell ox oy r d < 2048) →
    spriteBit (Memory.read m (base + r)) c = true → 2048 ≤ spriteCell ox oy r c →
    drawRows m base ox oy (rs ++ r :: rest) k = .error (.framebuffer, spriteCell ox oy r c) := by
  intro rs
  induction rs with
  | nil =>
    intro k _ top hc fit bit out
    have split8 : List.range 8 = List.range c ++ c :: List.range' (c + 1) (7 - c) := by
      interval_cases c <;> decide
    simp only [List.nil_append, drawRows, Config.addrMax, gt_iff_lt, Nat.not_lt.mpr top, if_false]
    rw [split8, drawColumns_error ox oy r _ c _ _ k (by simpa using fit) bit out]
  | cons d rs ih =>
    intro k fits top hc fit bit out
    have fd := fits d List.mem_cons_self
    obtain ⟨fb, e, -⟩ := drawColumns_range_ok k fd
    simp only [List.cons_append, drawRows, Config.addrMax, gt_iff_lt, Nat.not_lt.mpr fd.1, if_false, e]
    exact ih _ (fun d' h' => fits d' (List.mem_cons_of_mem d h')) top hc fit bit out

/-- A row's error names a cell out of range. -/
theorem drawColumns_error_bound (ox oy r : Nat) (row : Byte) : ∀ (cs : List Nat) (k : Canvas) (t : Nat),
    drawColumns ox oy r row cs k = .error t → 2048 ≤ t := by
  intro cs
  induction cs with
  | nil => intro k t h; simp [drawColumns] at h
  | cons c cs ih =>
    intro k t h
    simp only [drawColumns, Config.fbCells] at h
    split at h
    · split at h
      · exact ih _ _ h
      · cases h; omega
    · exact ih _ _ h

/-- A sprite's error names an address above 0xFFF or a cell out of range, and its region (R124). -/
theorem drawRows_error_bound (m : Memory) (base ox oy : Nat) : ∀ (rs : List Nat) (k : Canvas) (e : Region × Nat),
    drawRows m base ox oy rs k = .error e →
      (e.1 = .memory ∧ 0xFFF < e.2) ∨ (e.1 = .framebuffer ∧ 2048 ≤ e.2) := by
  intro rs
  induction rs with
  | nil => intro k e h; simp [drawRows] at h
  | cons r rs ih =>
    intro k e h
    simp only [drawRows, Config.addrMax] at h
    split at h
    · cases h; exact .inl ⟨rfl, by omega⟩
    · split at h
      · next t ht => cases h; exact .inr ⟨rfl, drawColumns_error_bound _ _ _ _ _ _ _ ht⟩
      · exact ih _ _ h

end Sys2Proof.Machine
end

