-- ==== Sys2Proof/Laws/Flags.lean ====
section
/-! SUPPORT. Every flag as a number: the condition each one reports (spec/43_alu.md R177, spec/44_index_memory.md R201). -/

namespace Sys2Proof.Machine

/-- A flag is 1 or 0 (R22). -/
theorem toNat_flagByte (c : Bool) : (flagByte c).toNat = if c = true then 1 else 0 := by
  cases c <;> rfl

/-- The carry says that the sum passes 255 (R179). -/
theorem toNat_flagByte_carry (a b : Byte) :
    (flagByte (carry a b)).toNat = if a.toNat + b.toNat > 255 then 1 else 0 := by
  have ha := a.isLt
  rw [toNat_flagByte]
  refine if_congr ?_ rfl rfl
  simp only [carry, decide_eq_true_eq]
  omega

/-- NOT borrow is 0 exactly when the subtrahend is larger (R180, R182). -/
theorem toNat_flagByte_notBorrow (a b : Byte) :
    (flagByte (notBorrow a b)).toNat = if b.toNat > a.toNat then 0 else 1 := by
  by_cases h : b.toNat > a.toNat <;> simp [toNat_flagByte, notBorrow, h]

/-- A right shift moves out the remainder by 2 (R181). -/
theorem toNat_flagByte_shiftedOutRight (v : Byte) : (flagByte (shiftedOutRight v)).toNat = v.toNat % 2 := by
  revert v; decide

/-- A left shift moves out the quotient by 128 (R183). -/
theorem toNat_flagByte_shiftedOutLeft (v : Byte) : (flagByte (shiftedOutLeft v)).toNat = v.toNat / 128 := by
  revert v; decide

/-- The index overflow says that the unbounded sum passes 0xFFF (R201). -/
theorem toNat_flagByte_indexOverflow (index : Word) (v : Byte) :
    (flagByte (indexOverflow index v)).toNat = if index.toNat + v.toNat > 0xFFF then 1 else 0 := by
  simp [toNat_flagByte, indexOverflow]

end Sys2Proof.Machine
end

