-- ==== Sys2Proof/Laws/Memory.lean ====
section
/-! SUPPORT. What the memory operations do: a read after a write, the canonical form they keep, and where an access of
several bytes first leaves the address space (spec/20_memory.md R55, spec/44_index_memory.md R202). -/

namespace Sys2Proof.Machine

theorem Memory.find_erase (a a' : Nat) (m : Memory) :
    Memory.find a' (Memory.erase a m) = if a' = a then none else Memory.find a' m := by
  induction m with
  | nil => simp [Memory.erase, Memory.find]
  | cons e m ih =>
    obtain ⟨k, b⟩ := e
    simp only [Memory.erase, Memory.find]
    split
    · next h => subst h; rw [ih]; split <;> simp_all [eq_comm]
    · next h => simp only [Memory.find, ih]; split <;> simp_all

theorem Memory.find_insert (a a' : Nat) (v : Byte) (m : Memory) :
    Memory.find a' (Memory.insert a v m) = if a' = a then some v else Memory.find a' m := by
  induction m with
  | nil => simp [Memory.insert, Memory.find, eq_comm]
  | cons e m ih =>
    obtain ⟨k, b⟩ := e
    simp only [Memory.insert]
    split
    · simp [Memory.find, eq_comm]
    · split
      · next h => subst h; by_cases h' : a' = k <;> simp [Memory.find, h', eq_comm]
      · simp only [Memory.find, ih]; split <;> simp_all

/-- A read after a write of one byte gives the byte written there, and the old byte elsewhere (R61). -/
theorem Memory.read_write (m : Memory) (a a' : Nat) (v : Byte) :
    Memory.read (Memory.write m a v) a' = if a' = a then v else Memory.read m a' := by
  unfold Memory.write Memory.read
  split
  · next h => subst h; rw [Memory.find_erase]; split <;> simp_all
  · rw [Memory.find_insert]; split <;> simp

/-- A read after consecutive bytes were written from `a` (R204, R205, R353). -/
theorem Memory.read_writeBytes (vs : List Byte) : ∀ (m : Memory) (a a' : Nat),
    Memory.read (Memory.writeBytes m a vs) a' =
      if a ≤ a' then (vs[a' - a]?).getD (Memory.read m a') else Memory.read m a' := by
  induction vs with
  | nil => intro m a a'; simp [Memory.writeBytes]
  | cons v vs ih =>
    intro m a a'
    rw [Memory.writeBytes, ih, Memory.read_write]
    rcases Nat.lt_trichotomy a' a with h | rfl | h
    · rw [if_neg (by omega), if_neg (by omega), if_neg (by omega)]
    · rw [if_neg (by omega)]; simp
    · rw [if_pos (by omega), if_neg (by omega), if_pos (by omega)]
      obtain ⟨d, rfl⟩ : ∃ d, a' = a + 1 + d := ⟨a' - (a + 1), by omega⟩
      have e : a + 1 + d - a = d + 1 := by omega
      simp [e]

/-- Outside the stored bytes, memory reads as before. -/
theorem Memory.read_writeBytes_outside {vs : List Byte} {m : Memory} {a a' : Nat}
    (h : a' < a ∨ a + vs.length ≤ a') : Memory.read (Memory.writeBytes m a vs) a' = Memory.read m a' := by
  rw [Memory.read_writeBytes]
  split
  · rw [List.getElem?_eq_none (by omega)]; rfl
  · rfl

/-- The `k`-th stored byte reads back. -/
theorem Memory.read_writeBytes_inside {vs : List Byte} {m : Memory} {a k : Nat} (h : k < vs.length) :
    Memory.read (Memory.writeBytes m a vs) (a + k) = vs[k] := by
  rw [Memory.read_writeBytes, if_pos (by omega)]
  simp [h]

/-! ### The canonical form -/

theorem Memory.wfFrom_mono {low low' : Nat} {m : Memory} (h : low' ≤ low) (w : Memory.wfFrom low m = true) :
    Memory.wfFrom low' m = true := by
  cases m with
  | nil => rfl
  | cons e m => simp only [Memory.wfFrom, Bool.and_eq_true, decide_eq_true_eq] at w ⊢; exact ⟨⟨⟨by omega, w.1.1.2⟩, w.1.2⟩, w.2⟩

theorem Memory.wfFrom_erase (a : Nat) : ∀ (m : Memory) (low : Nat),
    Memory.wfFrom low m = true → Memory.wfFrom low (Memory.erase a m) = true := by
  intro m
  induction m with
  | nil => intro low w; exact w
  | cons e m ih =>
    intro low w
    simp only [Memory.wfFrom, Bool.and_eq_true, decide_eq_true_eq] at w
    simp only [Memory.erase]
    split
    · exact Memory.wfFrom_mono (by omega) (ih _ w.2)
    · simp only [Memory.wfFrom, Bool.and_eq_true, decide_eq_true_eq]; exact ⟨w.1, ih _ w.2⟩

theorem Memory.wfFrom_insert {a : Nat} {v : Byte} (top : a ≤ 0xFFF) (ne : v ≠ Memory.unwritten a) :
    ∀ (m : Memory) (low : Nat), low ≤ a → Memory.wfFrom low m = true →
      Memory.wfFrom low (Memory.insert a v m) = true := by
  intro m
  induction m with
  | nil => intro low h _; simp [Memory.insert, Memory.wfFrom, h, top, ne]
  | cons e m ih =>
    intro low h w
    simp only [Memory.wfFrom, Bool.and_eq_true, decide_eq_true_eq] at w
    simp only [Memory.insert]
    split
    · next hlt =>
      simp only [Memory.wfFrom, Bool.and_eq_true, decide_eq_true_eq, bne_iff_ne, ne_eq]
      exact ⟨⟨⟨h, top⟩, ne⟩, ⟨⟨hlt, w.1.1.2⟩, by simpa using w.1.2⟩, w.2⟩
    · split
      · next heq =>
        subst heq
        simp only [Memory.wfFrom, Bool.and_eq_true, decide_eq_true_eq, bne_iff_ne, ne_eq]
        exact ⟨⟨⟨h, top⟩, ne⟩, w.2⟩
      · simp only [Memory.wfFrom, Bool.and_eq_true, decide_eq_true_eq]
        exact ⟨w.1, ih _ (by omega) w.2⟩

/-- A write inside the address space keeps the canonical form. -/
theorem Memory.wf_write {m : Memory} {a : Nat} (v : Byte) (top : a ≤ 0xFFF) (w : Memory.wf m = true) :
    Memory.wf (Memory.write m a v) = true := by
  unfold Memory.write
  split
  · exact Memory.wfFrom_erase a m 0 w
  · next ne => exact Memory.wfFrom_insert top ne m 0 (Nat.zero_le _) w

/-- Consecutive writes inside the address space keep the canonical form. -/
theorem Memory.wf_writeBytes : ∀ (vs : List Byte) {m : Memory} {a : Nat},
    a + vs.length ≤ 0x1000 → Memory.wf m = true → Memory.wf (Memory.writeBytes m a vs) = true := by
  intro vs
  induction vs with
  | nil => intro m a _ w; exact w
  | cons v vs ih =>
    intro m a h w
    simp only [List.length_cons] at h
    exact ih (by omega) (Memory.wf_write v (by omega) w)

/-- Memory after reset is in canonical form. -/
theorem Memory.wf_reset : Memory.wf State.reset.mem = true := rfl

/-! ### The first address out of range -/

/-- `firstOutOfRange` answers nothing exactly when the whole access is in range (R55). -/
theorem firstOutOfRange_eq_none {base n : Nat} :
    firstOutOfRange base n = none ↔ base + n ≤ 0x1000 ∨ n = 0 := by
  simp only [firstOutOfRange, List.find?_eq_none, List.mem_map, List.mem_range, Config.addrMax, decide_eq_true_eq,
    forall_exists_index, and_imp, forall_apply_eq_imp_iff₂]
  constructor
  · intro h
    rcases Nat.eq_zero_or_pos n with h0 | h0
    · exact .inr h0
    · have := h (n - 1) (by omega); exact .inl (by omega)
  · rintro h k hk; omega

/-- Otherwise it answers the lowest address of the access above 0xFFF (R202). -/
theorem firstOutOfRange_eq_some {base n : Nat} (h : base + n > 0x1000) (pos : 0 < n) :
    firstOutOfRange base n = some (max base 0x1000) := by
  rw [firstOutOfRange, List.find?_eq_some_iff_getElem]
  refine ⟨by simp, max base 0x1000 - base, by simp; omega, by simp, ?_⟩
  intro j hj
  simp only [List.getElem_map, List.getElem_range, Config.addrMax, Bool.not_eq_true', decide_eq_false_iff_not]
  omega

/-- What it answers is above 0xFFF. -/
theorem firstOutOfRange_gt {base n a : Nat} (h : firstOutOfRange base n = some a) : 0xFFF < a := by
  simpa using List.find?_some h

end Sys2Proof.Machine
end

