-- ==== Sys2Proof/Laws/State.lean ====
section
/-! SUPPORT. One lemma per field per single-field update of the state, each true by rfl, so that no later proof unfolds
a record update; the same for the operations made of them; then reading a register or a key after a write. -/

namespace Sys2Proof.Machine

variable (s : State)


/-! ### setMem -/

@[simp] theorem State.setMem_mem (m : Memory) : (s.setMem m).mem = m := rfl
@[simp] theorem State.setMem_V (m : Memory) : (s.setMem m).V = s.V := rfl
@[simp] theorem State.setMem_I (m : Memory) : (s.setMem m).I = s.I := rfl
@[simp] theorem State.setMem_pc (m : Memory) : (s.setMem m).pc = s.pc := rfl
@[simp] theorem State.setMem_stack (m : Memory) : (s.setMem m).stack = s.stack := rfl
@[simp] theorem State.setMem_sp (m : Memory) : (s.setMem m).sp = s.sp := rfl
@[simp] theorem State.setMem_dt (m : Memory) : (s.setMem m).dt = s.dt := rfl
@[simp] theorem State.setMem_st (m : Memory) : (s.setMem m).st = s.st := rfl
@[simp] theorem State.setMem_fb (m : Memory) : (s.setMem m).fb = s.fb := rfl
@[simp] theorem State.setMem_key (m : Memory) : (s.setMem m).key = s.key := rfl
@[simp] theorem State.setMem_redraw (m : Memory) : (s.setMem m).redraw = s.redraw := rfl
@[simp] theorem State.setMem_err (m : Memory) : (s.setMem m).err = s.err := rfl
@[simp] theorem State.setMem_status (m : Memory) : (s.setMem m).status = s.status := rfl
@[simp] theorem State.setMem_audible (m : Memory) : (s.setMem m).audible = s.audible := rfl
@[simp] theorem State.setMem_beep (m : Memory) : (s.setMem m).beep = s.beep := rfl
@[simp] theorem State.setMem_draws (m : Memory) : (s.setMem m).draws = s.draws := rfl
@[simp] theorem State.reg_setMem (m : Memory) (y : RegIdx) : (s.setMem m).reg y = s.reg y := rfl

/-! ### setReg -/

@[simp] theorem State.setReg_mem (x : RegIdx) (b : Byte) : (s.setReg x b).mem = s.mem := rfl
@[simp] theorem State.setReg_V (x : RegIdx) (b : Byte) : (s.setReg x b).V = s.V.set x.toNat b := rfl
@[simp] theorem State.setReg_I (x : RegIdx) (b : Byte) : (s.setReg x b).I = s.I := rfl
@[simp] theorem State.setReg_pc (x : RegIdx) (b : Byte) : (s.setReg x b).pc = s.pc := rfl
@[simp] theorem State.setReg_stack (x : RegIdx) (b : Byte) : (s.setReg x b).stack = s.stack := rfl
@[simp] theorem State.setReg_sp (x : RegIdx) (b : Byte) : (s.setReg x b).sp = s.sp := rfl
@[simp] theorem State.setReg_dt (x : RegIdx) (b : Byte) : (s.setReg x b).dt = s.dt := rfl
@[simp] theorem State.setReg_st (x : RegIdx) (b : Byte) : (s.setReg x b).st = s.st := rfl
@[simp] theorem State.setReg_fb (x : RegIdx) (b : Byte) : (s.setReg x b).fb = s.fb := rfl
@[simp] theorem State.setReg_key (x : RegIdx) (b : Byte) : (s.setReg x b).key = s.key := rfl
@[simp] theorem State.setReg_redraw (x : RegIdx) (b : Byte) : (s.setReg x b).redraw = s.redraw := rfl
@[simp] theorem State.setReg_err (x : RegIdx) (b : Byte) : (s.setReg x b).err = s.err := rfl
@[simp] theorem State.setReg_status (x : RegIdx) (b : Byte) : (s.setReg x b).status = s.status := rfl
@[simp] theorem State.setReg_audible (x : RegIdx) (b : Byte) : (s.setReg x b).audible = s.audible := rfl
@[simp] theorem State.setReg_beep (x : RegIdx) (b : Byte) : (s.setReg x b).beep = s.beep := rfl
@[simp] theorem State.setReg_draws (x : RegIdx) (b : Byte) : (s.setReg x b).draws = s.draws := rfl

/-! ### setI -/

@[simp] theorem State.setI_mem (w : Word) : (s.setI w).mem = s.mem := rfl
@[simp] theorem State.setI_V (w : Word) : (s.setI w).V = s.V := rfl
@[simp] theorem State.setI_I (w : Word) : (s.setI w).I = w := rfl
@[simp] theorem State.setI_pc (w : Word) : (s.setI w).pc = s.pc := rfl
@[simp] theorem State.setI_stack (w : Word) : (s.setI w).stack = s.stack := rfl
@[simp] theorem State.setI_sp (w : Word) : (s.setI w).sp = s.sp := rfl
@[simp] theorem State.setI_dt (w : Word) : (s.setI w).dt = s.dt := rfl
@[simp] theorem State.setI_st (w : Word) : (s.setI w).st = s.st := rfl
@[simp] theorem State.setI_fb (w : Word) : (s.setI w).fb = s.fb := rfl
@[simp] theorem State.setI_key (w : Word) : (s.setI w).key = s.key := rfl
@[simp] theorem State.setI_redraw (w : Word) : (s.setI w).redraw = s.redraw := rfl
@[simp] theorem State.setI_err (w : Word) : (s.setI w).err = s.err := rfl
@[simp] theorem State.setI_status (w : Word) : (s.setI w).status = s.status := rfl
@[simp] theorem State.setI_audible (w : Word) : (s.setI w).audible = s.audible := rfl
@[simp] theorem State.setI_beep (w : Word) : (s.setI w).beep = s.beep := rfl
@[simp] theorem State.setI_draws (w : Word) : (s.setI w).draws = s.draws := rfl
@[simp] theorem State.reg_setI (w : Word) (y : RegIdx) : (s.setI w).reg y = s.reg y := rfl

/-! ### setPc -/

@[simp] theorem State.setPc_mem (w : Word) : (s.setPc w).mem = s.mem := rfl
@[simp] theorem State.setPc_V (w : Word) : (s.setPc w).V = s.V := rfl
@[simp] theorem State.setPc_I (w : Word) : (s.setPc w).I = s.I := rfl
@[simp] theorem State.setPc_pc (w : Word) : (s.setPc w).pc = w := rfl
@[simp] theorem State.setPc_stack (w : Word) : (s.setPc w).stack = s.stack := rfl
@[simp] theorem State.setPc_sp (w : Word) : (s.setPc w).sp = s.sp := rfl
@[simp] theorem State.setPc_dt (w : Word) : (s.setPc w).dt = s.dt := rfl
@[simp] theorem State.setPc_st (w : Word) : (s.setPc w).st = s.st := rfl
@[simp] theorem State.setPc_fb (w : Word) : (s.setPc w).fb = s.fb := rfl
@[simp] theorem State.setPc_key (w : Word) : (s.setPc w).key = s.key := rfl
@[simp] theorem State.setPc_redraw (w : Word) : (s.setPc w).redraw = s.redraw := rfl
@[simp] theorem State.setPc_err (w : Word) : (s.setPc w).err = s.err := rfl
@[simp] theorem State.setPc_status (w : Word) : (s.setPc w).status = s.status := rfl
@[simp] theorem State.setPc_audible (w : Word) : (s.setPc w).audible = s.audible := rfl
@[simp] theorem State.setPc_beep (w : Word) : (s.setPc w).beep = s.beep := rfl
@[simp] theorem State.setPc_draws (w : Word) : (s.setPc w).draws = s.draws := rfl
@[simp] theorem State.reg_setPc (w : Word) (y : RegIdx) : (s.setPc w).reg y = s.reg y := rfl

/-! ### setStack -/

@[simp] theorem State.setStack_mem (k : Fin 16) (w : Word) : (s.setStack k w).mem = s.mem := rfl
@[simp] theorem State.setStack_V (k : Fin 16) (w : Word) : (s.setStack k w).V = s.V := rfl
@[simp] theorem State.setStack_I (k : Fin 16) (w : Word) : (s.setStack k w).I = s.I := rfl
@[simp] theorem State.setStack_pc (k : Fin 16) (w : Word) : (s.setStack k w).pc = s.pc := rfl
@[simp] theorem State.setStack_stack (k : Fin 16) (w : Word) : (s.setStack k w).stack = s.stack.set k w := rfl
@[simp] theorem State.setStack_sp (k : Fin 16) (w : Word) : (s.setStack k w).sp = s.sp := rfl
@[simp] theorem State.setStack_dt (k : Fin 16) (w : Word) : (s.setStack k w).dt = s.dt := rfl
@[simp] theorem State.setStack_st (k : Fin 16) (w : Word) : (s.setStack k w).st = s.st := rfl
@[simp] theorem State.setStack_fb (k : Fin 16) (w : Word) : (s.setStack k w).fb = s.fb := rfl
@[simp] theorem State.setStack_key (k : Fin 16) (w : Word) : (s.setStack k w).key = s.key := rfl
@[simp] theorem State.setStack_redraw (k : Fin 16) (w : Word) : (s.setStack k w).redraw = s.redraw := rfl
@[simp] theorem State.setStack_err (k : Fin 16) (w : Word) : (s.setStack k w).err = s.err := rfl
@[simp] theorem State.setStack_status (k : Fin 16) (w : Word) : (s.setStack k w).status = s.status := rfl
@[simp] theorem State.setStack_audible (k : Fin 16) (w : Word) : (s.setStack k w).audible = s.audible := rfl
@[simp] theorem State.setStack_beep (k : Fin 16) (w : Word) : (s.setStack k w).beep = s.beep := rfl
@[simp] theorem State.setStack_draws (k : Fin 16) (w : Word) : (s.setStack k w).draws = s.draws := rfl
@[simp] theorem State.reg_setStack (k : Fin 16) (w : Word) (y : RegIdx) : (s.setStack k w).reg y = s.reg y := rfl

/-! ### setSp -/

@[simp] theorem State.setSp_mem (n : Fin 17) : (s.setSp n).mem = s.mem := rfl
@[simp] theorem State.setSp_V (n : Fin 17) : (s.setSp n).V = s.V := rfl
@[simp] theorem State.setSp_I (n : Fin 17) : (s.setSp n).I = s.I := rfl
@[simp] theorem State.setSp_pc (n : Fin 17) : (s.setSp n).pc = s.pc := rfl
@[simp] theorem State.setSp_stack (n : Fin 17) : (s.setSp n).stack = s.stack := rfl
@[simp] theorem State.setSp_sp (n : Fin 17) : (s.setSp n).sp = n := rfl
@[simp] theorem State.setSp_dt (n : Fin 17) : (s.setSp n).dt = s.dt := rfl
@[simp] theorem State.setSp_st (n : Fin 17) : (s.setSp n).st = s.st := rfl
@[simp] theorem State.setSp_fb (n : Fin 17) : (s.setSp n).fb = s.fb := rfl
@[simp] theorem State.setSp_key (n : Fin 17) : (s.setSp n).key = s.key := rfl
@[simp] theorem State.setSp_redraw (n : Fin 17) : (s.setSp n).redraw = s.redraw := rfl
@[simp] theorem State.setSp_err (n : Fin 17) : (s.setSp n).err = s.err := rfl
@[simp] theorem State.setSp_status (n : Fin 17) : (s.setSp n).status = s.status := rfl
@[simp] theorem State.setSp_audible (n : Fin 17) : (s.setSp n).audible = s.audible := rfl
@[simp] theorem State.setSp_beep (n : Fin 17) : (s.setSp n).beep = s.beep := rfl
@[simp] theorem State.setSp_draws (n : Fin 17) : (s.setSp n).draws = s.draws := rfl
@[simp] theorem State.reg_setSp (n : Fin 17) (y : RegIdx) : (s.setSp n).reg y = s.reg y := rfl

/-! ### setDt -/

@[simp] theorem State.setDt_mem (b : Byte) : (s.setDt b).mem = s.mem := rfl
@[simp] theorem State.setDt_V (b : Byte) : (s.setDt b).V = s.V := rfl
@[simp] theorem State.setDt_I (b : Byte) : (s.setDt b).I = s.I := rfl
@[simp] theorem State.setDt_pc (b : Byte) : (s.setDt b).pc = s.pc := rfl
@[simp] theorem State.setDt_stack (b : Byte) : (s.setDt b).stack = s.stack := rfl
@[simp] theorem State.setDt_sp (b : Byte) : (s.setDt b).sp = s.sp := rfl
@[simp] theorem State.setDt_dt (b : Byte) : (s.setDt b).dt = b := rfl
@[simp] theorem State.setDt_st (b : Byte) : (s.setDt b).st = s.st := rfl
@[simp] theorem State.setDt_fb (b : Byte) : (s.setDt b).fb = s.fb := rfl
@[simp] theorem State.setDt_key (b : Byte) : (s.setDt b).key = s.key := rfl
@[simp] theorem State.setDt_redraw (b : Byte) : (s.setDt b).redraw = s.redraw := rfl
@[simp] theorem State.setDt_err (b : Byte) : (s.setDt b).err = s.err := rfl
@[simp] theorem State.setDt_status (b : Byte) : (s.setDt b).status = s.status := rfl
@[simp] theorem State.setDt_audible (b : Byte) : (s.setDt b).audible = s.audible := rfl
@[simp] theorem State.setDt_beep (b : Byte) : (s.setDt b).beep = s.beep := rfl
@[simp] theorem State.setDt_draws (b : Byte) : (s.setDt b).draws = s.draws := rfl
@[simp] theorem State.reg_setDt (b : Byte) (y : RegIdx) : (s.setDt b).reg y = s.reg y := rfl

/-! ### setSt -/

@[simp] theorem State.setSt_mem (b : Byte) : (s.setSt b).mem = s.mem := rfl
@[simp] theorem State.setSt_V (b : Byte) : (s.setSt b).V = s.V := rfl
@[simp] theorem State.setSt_I (b : Byte) : (s.setSt b).I = s.I := rfl
@[simp] theorem State.setSt_pc (b : Byte) : (s.setSt b).pc = s.pc := rfl
@[simp] theorem State.setSt_stack (b : Byte) : (s.setSt b).stack = s.stack := rfl
@[simp] theorem State.setSt_sp (b : Byte) : (s.setSt b).sp = s.sp := rfl
@[simp] theorem State.setSt_dt (b : Byte) : (s.setSt b).dt = s.dt := rfl
@[simp] theorem State.setSt_st (b : Byte) : (s.setSt b).st = b := rfl
@[simp] theorem State.setSt_fb (b : Byte) : (s.setSt b).fb = s.fb := rfl
@[simp] theorem State.setSt_key (b : Byte) : (s.setSt b).key = s.key := rfl
@[simp] theorem State.setSt_redraw (b : Byte) : (s.setSt b).redraw = s.redraw := rfl
@[simp] theorem State.setSt_err (b : Byte) : (s.setSt b).err = s.err := rfl
@[simp] theorem State.setSt_status (b : Byte) : (s.setSt b).status = s.status := rfl
@[simp] theorem State.setSt_audible (b : Byte) : (s.setSt b).audible = s.audible := rfl
@[simp] theorem State.setSt_beep (b : Byte) : (s.setSt b).beep = s.beep := rfl
@[simp] theorem State.setSt_draws (b : Byte) : (s.setSt b).draws = s.draws := rfl
@[simp] theorem State.reg_setSt (b : Byte) (y : RegIdx) : (s.setSt b).reg y = s.reg y := rfl

/-! ### setFb -/

@[simp] theorem State.setFb_mem (f : Framebuffer) : (s.setFb f).mem = s.mem := rfl
@[simp] theorem State.setFb_V (f : Framebuffer) : (s.setFb f).V = s.V := rfl
@[simp] theorem State.setFb_I (f : Framebuffer) : (s.setFb f).I = s.I := rfl
@[simp] theorem State.setFb_pc (f : Framebuffer) : (s.setFb f).pc = s.pc := rfl
@[simp] theorem State.setFb_stack (f : Framebuffer) : (s.setFb f).stack = s.stack := rfl
@[simp] theorem State.setFb_sp (f : Framebuffer) : (s.setFb f).sp = s.sp := rfl
@[simp] theorem State.setFb_dt (f : Framebuffer) : (s.setFb f).dt = s.dt := rfl
@[simp] theorem State.setFb_st (f : Framebuffer) : (s.setFb f).st = s.st := rfl
@[simp] theorem State.setFb_fb (f : Framebuffer) : (s.setFb f).fb = f := rfl
@[simp] theorem State.setFb_key (f : Framebuffer) : (s.setFb f).key = s.key := rfl
@[simp] theorem State.setFb_redraw (f : Framebuffer) : (s.setFb f).redraw = s.redraw := rfl
@[simp] theorem State.setFb_err (f : Framebuffer) : (s.setFb f).err = s.err := rfl
@[simp] theorem State.setFb_status (f : Framebuffer) : (s.setFb f).status = s.status := rfl
@[simp] theorem State.setFb_audible (f : Framebuffer) : (s.setFb f).audible = s.audible := rfl
@[simp] theorem State.setFb_beep (f : Framebuffer) : (s.setFb f).beep = s.beep := rfl
@[simp] theorem State.setFb_draws (f : Framebuffer) : (s.setFb f).draws = s.draws := rfl
@[simp] theorem State.reg_setFb (f : Framebuffer) (y : RegIdx) : (s.setFb f).reg y = s.reg y := rfl

/-! ### setKeyState -/

@[simp] theorem State.setKeyState_mem (k : Fin 16) (b : Bool) : (s.setKeyState k b).mem = s.mem := rfl
@[simp] theorem State.setKeyState_V (k : Fin 16) (b : Bool) : (s.setKeyState k b).V = s.V := rfl
@[simp] theorem State.setKeyState_I (k : Fin 16) (b : Bool) : (s.setKeyState k b).I = s.I := rfl
@[simp] theorem State.setKeyState_pc (k : Fin 16) (b : Bool) : (s.setKeyState k b).pc = s.pc := rfl
@[simp] theorem State.setKeyState_stack (k : Fin 16) (b : Bool) : (s.setKeyState k b).stack = s.stack := rfl
@[simp] theorem State.setKeyState_sp (k : Fin 16) (b : Bool) : (s.setKeyState k b).sp = s.sp := rfl
@[simp] theorem State.setKeyState_dt (k : Fin 16) (b : Bool) : (s.setKeyState k b).dt = s.dt := rfl
@[simp] theorem State.setKeyState_st (k : Fin 16) (b : Bool) : (s.setKeyState k b).st = s.st := rfl
@[simp] theorem State.setKeyState_fb (k : Fin 16) (b : Bool) : (s.setKeyState k b).fb = s.fb := rfl
@[simp] theorem State.setKeyState_key (k : Fin 16) (b : Bool) : (s.setKeyState k b).key = s.key.set k b := rfl
@[simp] theorem State.setKeyState_redraw (k : Fin 16) (b : Bool) : (s.setKeyState k b).redraw = s.redraw := rfl
@[simp] theorem State.setKeyState_err (k : Fin 16) (b : Bool) : (s.setKeyState k b).err = s.err := rfl
@[simp] theorem State.setKeyState_status (k : Fin 16) (b : Bool) : (s.setKeyState k b).status = s.status := rfl
@[simp] theorem State.setKeyState_audible (k : Fin 16) (b : Bool) : (s.setKeyState k b).audible = s.audible := rfl
@[simp] theorem State.setKeyState_beep (k : Fin 16) (b : Bool) : (s.setKeyState k b).beep = s.beep := rfl
@[simp] theorem State.setKeyState_draws (k : Fin 16) (b : Bool) : (s.setKeyState k b).draws = s.draws := rfl
@[simp] theorem State.reg_setKeyState (k : Fin 16) (b : Bool) (y : RegIdx) : (s.setKeyState k b).reg y = s.reg y := rfl

/-! ### setRedraw -/

@[simp] theorem State.setRedraw_mem (b : Bool) : (s.setRedraw b).mem = s.mem := rfl
@[simp] theorem State.setRedraw_V (b : Bool) : (s.setRedraw b).V = s.V := rfl
@[simp] theorem State.setRedraw_I (b : Bool) : (s.setRedraw b).I = s.I := rfl
@[simp] theorem State.setRedraw_pc (b : Bool) : (s.setRedraw b).pc = s.pc := rfl
@[simp] theorem State.setRedraw_stack (b : Bool) : (s.setRedraw b).stack = s.stack := rfl
@[simp] theorem State.setRedraw_sp (b : Bool) : (s.setRedraw b).sp = s.sp := rfl
@[simp] theorem State.setRedraw_dt (b : Bool) : (s.setRedraw b).dt = s.dt := rfl
@[simp] theorem State.setRedraw_st (b : Bool) : (s.setRedraw b).st = s.st := rfl
@[simp] theorem State.setRedraw_fb (b : Bool) : (s.setRedraw b).fb = s.fb := rfl
@[simp] theorem State.setRedraw_key (b : Bool) : (s.setRedraw b).key = s.key := rfl
@[simp] theorem State.setRedraw_redraw (b : Bool) : (s.setRedraw b).redraw = b := rfl
@[simp] theorem State.setRedraw_err (b : Bool) : (s.setRedraw b).err = s.err := rfl
@[simp] theorem State.setRedraw_status (b : Bool) : (s.setRedraw b).status = s.status := rfl
@[simp] theorem State.setRedraw_audible (b : Bool) : (s.setRedraw b).audible = s.audible := rfl
@[simp] theorem State.setRedraw_beep (b : Bool) : (s.setRedraw b).beep = s.beep := rfl
@[simp] theorem State.setRedraw_draws (b : Bool) : (s.setRedraw b).draws = s.draws := rfl
@[simp] theorem State.reg_setRedraw (b : Bool) (y : RegIdx) : (s.setRedraw b).reg y = s.reg y := rfl

/-! ### setErr -/

@[simp] theorem State.setErr_mem (e : Option ErrorRecord) : (s.setErr e).mem = s.mem := rfl
@[simp] theorem State.setErr_V (e : Option ErrorRecord) : (s.setErr e).V = s.V := rfl
@[simp] theorem State.setErr_I (e : Option ErrorRecord) : (s.setErr e).I = s.I := rfl
@[simp] theorem State.setErr_pc (e : Option ErrorRecord) : (s.setErr e).pc = s.pc := rfl
@[simp] theorem State.setErr_stack (e : Option ErrorRecord) : (s.setErr e).stack = s.stack := rfl
@[simp] theorem State.setErr_sp (e : Option ErrorRecord) : (s.setErr e).sp = s.sp := rfl
@[simp] theorem State.setErr_dt (e : Option ErrorRecord) : (s.setErr e).dt = s.dt := rfl
@[simp] theorem State.setErr_st (e : Option ErrorRecord) : (s.setErr e).st = s.st := rfl
@[simp] theorem State.setErr_fb (e : Option ErrorRecord) : (s.setErr e).fb = s.fb := rfl
@[simp] theorem State.setErr_key (e : Option ErrorRecord) : (s.setErr e).key = s.key := rfl
@[simp] theorem State.setErr_redraw (e : Option ErrorRecord) : (s.setErr e).redraw = s.redraw := rfl
@[simp] theorem State.setErr_err (e : Option ErrorRecord) : (s.setErr e).err = e := rfl
@[simp] theorem State.setErr_status (e : Option ErrorRecord) : (s.setErr e).status = s.status := rfl
@[simp] theorem State.setErr_audible (e : Option ErrorRecord) : (s.setErr e).audible = s.audible := rfl
@[simp] theorem State.setErr_beep (e : Option ErrorRecord) : (s.setErr e).beep = s.beep := rfl
@[simp] theorem State.setErr_draws (e : Option ErrorRecord) : (s.setErr e).draws = s.draws := rfl
@[simp] theorem State.reg_setErr (e : Option ErrorRecord) (y : RegIdx) : (s.setErr e).reg y = s.reg y := rfl

/-! ### setStatus -/

@[simp] theorem State.setStatus_mem (r : Status) : (s.setStatus r).mem = s.mem := rfl
@[simp] theorem State.setStatus_V (r : Status) : (s.setStatus r).V = s.V := rfl
@[simp] theorem State.setStatus_I (r : Status) : (s.setStatus r).I = s.I := rfl
@[simp] theorem State.setStatus_pc (r : Status) : (s.setStatus r).pc = s.pc := rfl
@[simp] theorem State.setStatus_stack (r : Status) : (s.setStatus r).stack = s.stack := rfl
@[simp] theorem State.setStatus_sp (r : Status) : (s.setStatus r).sp = s.sp := rfl
@[simp] theorem State.setStatus_dt (r : Status) : (s.setStatus r).dt = s.dt := rfl
@[simp] theorem State.setStatus_st (r : Status) : (s.setStatus r).st = s.st := rfl
@[simp] theorem State.setStatus_fb (r : Status) : (s.setStatus r).fb = s.fb := rfl
@[simp] theorem State.setStatus_key (r : Status) : (s.setStatus r).key = s.key := rfl
@[simp] theorem State.setStatus_redraw (r : Status) : (s.setStatus r).redraw = s.redraw := rfl
@[simp] theorem State.setStatus_err (r : Status) : (s.setStatus r).err = s.err := rfl
@[simp] theorem State.setStatus_status (r : Status) : (s.setStatus r).status = r := rfl
@[simp] theorem State.setStatus_audible (r : Status) : (s.setStatus r).audible = s.audible := rfl
@[simp] theorem State.setStatus_beep (r : Status) : (s.setStatus r).beep = s.beep := rfl
@[simp] theorem State.setStatus_draws (r : Status) : (s.setStatus r).draws = s.draws := rfl
@[simp] theorem State.reg_setStatus (r : Status) (y : RegIdx) : (s.setStatus r).reg y = s.reg y := rfl

/-! ### setSound -/

@[simp] theorem State.setSound_mem (a b : Bool) : (s.setSound a b).mem = s.mem := rfl
@[simp] theorem State.setSound_V (a b : Bool) : (s.setSound a b).V = s.V := rfl
@[simp] theorem State.setSound_I (a b : Bool) : (s.setSound a b).I = s.I := rfl
@[simp] theorem State.setSound_pc (a b : Bool) : (s.setSound a b).pc = s.pc := rfl
@[simp] theorem State.setSound_stack (a b : Bool) : (s.setSound a b).stack = s.stack := rfl
@[simp] theorem State.setSound_sp (a b : Bool) : (s.setSound a b).sp = s.sp := rfl
@[simp] theorem State.setSound_dt (a b : Bool) : (s.setSound a b).dt = s.dt := rfl
@[simp] theorem State.setSound_st (a b : Bool) : (s.setSound a b).st = s.st := rfl
@[simp] theorem State.setSound_fb (a b : Bool) : (s.setSound a b).fb = s.fb := rfl
@[simp] theorem State.setSound_key (a b : Bool) : (s.setSound a b).key = s.key := rfl
@[simp] theorem State.setSound_redraw (a b : Bool) : (s.setSound a b).redraw = s.redraw := rfl
@[simp] theorem State.setSound_err (a b : Bool) : (s.setSound a b).err = s.err := rfl
@[simp] theorem State.setSound_status (a b : Bool) : (s.setSound a b).status = s.status := rfl
@[simp] theorem State.setSound_audible (a b : Bool) : (s.setSound a b).audible = a := rfl
@[simp] theorem State.setSound_beep (a b : Bool) : (s.setSound a b).beep = b := rfl
@[simp] theorem State.setSound_draws (a b : Bool) : (s.setSound a b).draws = s.draws := rfl
@[simp] theorem State.reg_setSound (a b : Bool) (y : RegIdx) : (s.setSound a b).reg y = s.reg y := rfl

/-! ### countDraw -/

@[simp] theorem State.countDraw_mem : (s.countDraw).mem = s.mem := rfl
@[simp] theorem State.countDraw_V : (s.countDraw).V = s.V := rfl
@[simp] theorem State.countDraw_I : (s.countDraw).I = s.I := rfl
@[simp] theorem State.countDraw_pc : (s.countDraw).pc = s.pc := rfl
@[simp] theorem State.countDraw_stack : (s.countDraw).stack = s.stack := rfl
@[simp] theorem State.countDraw_sp : (s.countDraw).sp = s.sp := rfl
@[simp] theorem State.countDraw_dt : (s.countDraw).dt = s.dt := rfl
@[simp] theorem State.countDraw_st : (s.countDraw).st = s.st := rfl
@[simp] theorem State.countDraw_fb : (s.countDraw).fb = s.fb := rfl
@[simp] theorem State.countDraw_key : (s.countDraw).key = s.key := rfl
@[simp] theorem State.countDraw_redraw : (s.countDraw).redraw = s.redraw := rfl
@[simp] theorem State.countDraw_err : (s.countDraw).err = s.err := rfl
@[simp] theorem State.countDraw_status : (s.countDraw).status = s.status := rfl
@[simp] theorem State.countDraw_audible : (s.countDraw).audible = s.audible := rfl
@[simp] theorem State.countDraw_beep : (s.countDraw).beep = s.beep := rfl
@[simp] theorem State.countDraw_draws : (s.countDraw).draws = s.draws + 1 := rfl
@[simp] theorem State.reg_countDraw (y : RegIdx) : (s.countDraw).reg y = s.reg y := rfl

/-! ### advance -/

@[simp] theorem State.advance_mem : (s.advance).mem = s.mem := rfl
@[simp] theorem State.advance_V : (s.advance).V = s.V := rfl
@[simp] theorem State.advance_I : (s.advance).I = s.I := rfl
@[simp] theorem State.advance_pc : (s.advance).pc = s.pc + 2 := rfl
@[simp] theorem State.advance_stack : (s.advance).stack = s.stack := rfl
@[simp] theorem State.advance_sp : (s.advance).sp = s.sp := rfl
@[simp] theorem State.advance_dt : (s.advance).dt = s.dt := rfl
@[simp] theorem State.advance_st : (s.advance).st = s.st := rfl
@[simp] theorem State.advance_fb : (s.advance).fb = s.fb := rfl
@[simp] theorem State.advance_key : (s.advance).key = s.key := rfl
@[simp] theorem State.advance_redraw : (s.advance).redraw = s.redraw := rfl
@[simp] theorem State.advance_err : (s.advance).err = s.err := rfl
@[simp] theorem State.advance_status : (s.advance).status = s.status := rfl
@[simp] theorem State.advance_audible : (s.advance).audible = s.audible := rfl
@[simp] theorem State.advance_beep : (s.advance).beep = s.beep := rfl
@[simp] theorem State.advance_draws : (s.advance).draws = s.draws := rfl
@[simp] theorem State.reg_advance (y : RegIdx) : (s.advance).reg y = s.reg y := rfl

/-! ### skipIf -/

@[simp] theorem State.skipIf_mem (c : Bool) : (s.skipIf c).mem = s.mem := rfl
@[simp] theorem State.skipIf_V (c : Bool) : (s.skipIf c).V = s.V := rfl
@[simp] theorem State.skipIf_I (c : Bool) : (s.skipIf c).I = s.I := rfl
@[simp] theorem State.skipIf_pc (c : Bool) : (s.skipIf c).pc = s.pc + if c then 4 else 2 := rfl
@[simp] theorem State.skipIf_stack (c : Bool) : (s.skipIf c).stack = s.stack := rfl
@[simp] theorem State.skipIf_sp (c : Bool) : (s.skipIf c).sp = s.sp := rfl
@[simp] theorem State.skipIf_dt (c : Bool) : (s.skipIf c).dt = s.dt := rfl
@[simp] theorem State.skipIf_st (c : Bool) : (s.skipIf c).st = s.st := rfl
@[simp] theorem State.skipIf_fb (c : Bool) : (s.skipIf c).fb = s.fb := rfl
@[simp] theorem State.skipIf_key (c : Bool) : (s.skipIf c).key = s.key := rfl
@[simp] theorem State.skipIf_redraw (c : Bool) : (s.skipIf c).redraw = s.redraw := rfl
@[simp] theorem State.skipIf_err (c : Bool) : (s.skipIf c).err = s.err := rfl
@[simp] theorem State.skipIf_status (c : Bool) : (s.skipIf c).status = s.status := rfl
@[simp] theorem State.skipIf_audible (c : Bool) : (s.skipIf c).audible = s.audible := rfl
@[simp] theorem State.skipIf_beep (c : Bool) : (s.skipIf c).beep = s.beep := rfl
@[simp] theorem State.skipIf_draws (c : Bool) : (s.skipIf c).draws = s.draws := rfl
@[simp] theorem State.reg_skipIf (c : Bool) (y : RegIdx) : (s.skipIf c).reg y = s.reg y := rfl

/-! ### raise -/

@[simp] theorem State.raise_mem (r : ErrorRecord) : (s.raise r).mem = s.mem := rfl
@[simp] theorem State.raise_V (r : ErrorRecord) : (s.raise r).V = s.V := rfl
@[simp] theorem State.raise_I (r : ErrorRecord) : (s.raise r).I = s.I := rfl
@[simp] theorem State.raise_pc (r : ErrorRecord) : (s.raise r).pc = s.pc := rfl
@[simp] theorem State.raise_stack (r : ErrorRecord) : (s.raise r).stack = s.stack := rfl
@[simp] theorem State.raise_sp (r : ErrorRecord) : (s.raise r).sp = s.sp := rfl
@[simp] theorem State.raise_dt (r : ErrorRecord) : (s.raise r).dt = s.dt := rfl
@[simp] theorem State.raise_st (r : ErrorRecord) : (s.raise r).st = s.st := rfl
@[simp] theorem State.raise_fb (r : ErrorRecord) : (s.raise r).fb = s.fb := rfl
@[simp] theorem State.raise_key (r : ErrorRecord) : (s.raise r).key = s.key := rfl
@[simp] theorem State.raise_redraw (r : ErrorRecord) : (s.raise r).redraw = s.redraw := rfl
@[simp] theorem State.raise_err (r : ErrorRecord) : (s.raise r).err = some r := rfl
@[simp] theorem State.raise_status (r : ErrorRecord) : (s.raise r).status = s.status := rfl
@[simp] theorem State.raise_audible (r : ErrorRecord) : (s.raise r).audible = s.audible := rfl
@[simp] theorem State.raise_beep (r : ErrorRecord) : (s.raise r).beep = s.beep := rfl
@[simp] theorem State.raise_draws (r : ErrorRecord) : (s.raise r).draws = s.draws := rfl
@[simp] theorem State.reg_raise (r : ErrorRecord) (y : RegIdx) : (s.raise r).reg y = s.reg y := rfl

/-! ### report -/

@[simp] theorem State.report_mem : (s.report).mem = s.mem := rfl
@[simp] theorem State.report_V : (s.report).V = s.V := rfl
@[simp] theorem State.report_I : (s.report).I = s.I := rfl
@[simp] theorem State.report_pc : (s.report).pc = s.pc := rfl
@[simp] theorem State.report_stack : (s.report).stack = s.stack := rfl
@[simp] theorem State.report_sp : (s.report).sp = s.sp := rfl
@[simp] theorem State.report_dt : (s.report).dt = s.dt := rfl
@[simp] theorem State.report_st : (s.report).st = s.st := rfl
@[simp] theorem State.report_fb : (s.report).fb = s.fb := rfl
@[simp] theorem State.report_key : (s.report).key = s.key := rfl
@[simp] theorem State.report_redraw : (s.report).redraw = s.redraw := rfl
@[simp] theorem State.report_err : (s.report).err = s.err := rfl
@[simp] theorem State.report_status : (s.report).status = match s.err with | none => .ok | some r => .fatal r := rfl
@[simp] theorem State.report_audible : (s.report).audible = s.audible := rfl
@[simp] theorem State.report_beep : (s.report).beep = s.beep := rfl
@[simp] theorem State.report_draws : (s.report).draws = s.draws := rfl
@[simp] theorem State.reg_report (y : RegIdx) : (s.report).reg y = s.reg y := rfl

/-! ### setFlag -/

@[simp] theorem State.setFlag_mem (c : Bool) : (s.setFlag c).mem = s.mem := rfl
@[simp] theorem State.setFlag_V (c : Bool) : (s.setFlag c).V = s.V.set flagReg.toNat (flagByte c) := rfl
@[simp] theorem State.setFlag_I (c : Bool) : (s.setFlag c).I = s.I := rfl
@[simp] theorem State.setFlag_pc (c : Bool) : (s.setFlag c).pc = s.pc := rfl
@[simp] theorem State.setFlag_stack (c : Bool) : (s.setFlag c).stack = s.stack := rfl
@[simp] theorem State.setFlag_sp (c : Bool) : (s.setFlag c).sp = s.sp := rfl
@[simp] theorem State.setFlag_dt (c : Bool) : (s.setFlag c).dt = s.dt := rfl
@[simp] theorem State.setFlag_st (c : Bool) : (s.setFlag c).st = s.st := rfl
@[simp] theorem State.setFlag_fb (c : Bool) : (s.setFlag c).fb = s.fb := rfl
@[simp] theorem State.setFlag_key (c : Bool) : (s.setFlag c).key = s.key := rfl
@[simp] theorem State.setFlag_redraw (c : Bool) : (s.setFlag c).redraw = s.redraw := rfl
@[simp] theorem State.setFlag_err (c : Bool) : (s.setFlag c).err = s.err := rfl
@[simp] theorem State.setFlag_status (c : Bool) : (s.setFlag c).status = s.status := rfl
@[simp] theorem State.setFlag_audible (c : Bool) : (s.setFlag c).audible = s.audible := rfl
@[simp] theorem State.setFlag_beep (c : Bool) : (s.setFlag c).beep = s.beep := rfl
@[simp] theorem State.setFlag_draws (c : Bool) : (s.setFlag c).draws = s.draws := rfl

/-! ### pop -/

@[simp] theorem State.pop_mem : (s.pop).mem = s.mem := rfl
@[simp] theorem State.pop_V : (s.pop).V = s.V := rfl
@[simp] theorem State.pop_I : (s.pop).I = s.I := rfl
@[simp] theorem State.pop_pc : (s.pop).pc = s.pc := rfl
@[simp] theorem State.pop_stack : (s.pop).stack = s.stack := rfl
@[simp] theorem State.pop_sp : (s.pop).sp = ⟨s.sp.val - 1, by omega⟩ := rfl
@[simp] theorem State.pop_dt : (s.pop).dt = s.dt := rfl
@[simp] theorem State.pop_st : (s.pop).st = s.st := rfl
@[simp] theorem State.pop_fb : (s.pop).fb = s.fb := rfl
@[simp] theorem State.pop_key : (s.pop).key = s.key := rfl
@[simp] theorem State.pop_redraw : (s.pop).redraw = s.redraw := rfl
@[simp] theorem State.pop_err : (s.pop).err = s.err := rfl
@[simp] theorem State.pop_status : (s.pop).status = s.status := rfl
@[simp] theorem State.pop_audible : (s.pop).audible = s.audible := rfl
@[simp] theorem State.pop_beep : (s.pop).beep = s.beep := rfl
@[simp] theorem State.pop_draws : (s.pop).draws = s.draws := rfl
@[simp] theorem State.reg_pop (y : RegIdx) : (s.pop).reg y = s.reg y := rfl

/-! ### Registers -/

/-- Reading a register after a register write (R7, R21). -/
theorem State.reg_setReg (x y : RegIdx) (b : Byte) :
    (s.setReg x b).reg y = if y = x then b else s.reg y := by
  by_cases h : y = x
  · subst h; simp [State.reg]
  · have : x.toNat ≠ y.toNat := fun e => h (BitVec.eq_of_toNat_eq e.symm)
    simp [State.reg, h, this]

@[simp] theorem State.reg_setReg_same (x : RegIdx) (b : Byte) : (s.setReg x b).reg x = b := by
  simp [State.reg_setReg]

theorem State.reg_setReg_ne {x y : RegIdx} (h : y ≠ x) (b : Byte) : (s.setReg x b).reg y = s.reg y := by
  simp [State.reg_setReg, h]

/-- Reading a register after the flag is written (R22). -/
theorem State.reg_setFlag (c : Bool) (y : RegIdx) :
    (s.setFlag c).reg y = if y = flagReg then flagByte c else s.reg y := State.reg_setReg s flagReg y (flagByte c)

/-- The keys after a key write (R356). -/
theorem State.keyAt_setKeyState (k : Fin 16) (b : Bool) (j : Nat) :
    (s.setKeyState k b).keyAt j = if j = k.val then b else s.keyAt j := by
  simp only [State.keyAt, State.setKeyState_key, Config.keyCount]
  split
  · by_cases h : k.val = j
    · simp [h]
    · have h' : j ≠ k.val := fun e => h e.symm
      simp [h, h']
  · have : j ≠ k.val := by omega
    simp [this]

end Sys2Proof.Machine
end

