-- ==== Sys2Proof/Laws/Ops.lean ====
section
/-! SUPPORT. What each shared operation can do, said once: the fetch, the sequencer, an index-relative access, a flag and
result write, loading and listing registers, the key scan, and the stack. -/

namespace Sys2Proof.Machine

/-! ### Fetch and sequencer -/

/-- The fetch succeeds exactly up to 0xFFE, and gives the two bytes at pc (R102). -/
theorem State.fetch_ok_iff {s : State} {op : Word} : s.fetch = .ok op ↔
    s.pc.toNat ≤ 0xFFE ∧ op = opcodeOfBytes (Memory.read s.mem s.pc.toNat) (Memory.read s.mem (s.pc.toNat + 1)) := by
  unfold State.fetch
  split
  · next h => simp only [Config.addrMax] at h; simp; omega
  · next h => simp only [Config.addrMax] at h; simp only [Except.ok.injEq, eq_comm]; constructor
              · exact fun e => ⟨by omega, e⟩
              · exact fun e => e.2

/-- Above 0xFFE the fetch is out of bounds (R102). -/
theorem State.fetch_error {s : State} (h : 0xFFE < s.pc.toNat) :
    s.fetch = .error (.outOfBounds s.pc .fetch s.pc.toNat) := by
  unfold State.fetch
  rw [if_pos (by simp only [Config.addrMax]; omega)]

/-- A fetch that fails was out of bounds (R102). -/
theorem State.fetch_error_iff {s : State} {r : ErrorRecord} : s.fetch = .error r ↔
    0xFFE < s.pc.toNat ∧ r = .outOfBounds s.pc .fetch s.pc.toNat := by
  unfold State.fetch
  split
  · next h => simp only [Config.addrMax] at h; simp only [Except.error.injEq, eq_comm]; constructor
              · exact fun e => ⟨by omega, e⟩
              · exact fun e => e.2
  · next h => simp only [Config.addrMax] at h; simp; omega

theorem stepTransaction_halted {run : Instr → State → Result} {s : State} {r : ErrorRecord} (h : s.err = some r) :
    stepTransaction run s = .next (s.setStatus (.halted r)) := by
  simp [stepTransaction, h]

theorem stepTransaction_fetch_error {run : Instr → State → Result} {s : State} {r : ErrorRecord} (h : s.err = none)
    (hf : s.fetch = .error r) : stepTransaction run s = .next (s.raise r).report := by
  simp [stepTransaction, h, hf]

theorem stepTransaction_unknown {run : Instr → State → Result} {s : State} {op : Word} {e : DecodeError} (h : s.err = none)
    (hf : s.fetch = .ok op) (hd : decode op = .error e) :
    stepTransaction run s = .next (s.advance.setStatus (.unknownOpcode op s.pc)) := by
  simp [stepTransaction, h, hf, hd]

theorem stepTransaction_execute {run : Instr → State → Result} {s t : State} {op : Word} {i : Instr} (h : s.err = none)
    (hf : s.fetch = .ok op) (hd : decode op = .ok i) (hr : run i s = .next t) : stepTransaction run s = .next t.report := by
  simp [stepTransaction, h, hf, hd, hr]

/-- Everything a step that answers a next state can have been (R100). -/
theorem stepTransaction_cases {run : Instr → State → Result} {s t : State} (h : stepTransaction run s = .next t) :
    (∃ r, s.err = some r ∧ t = s.setStatus (.halted r)) ∨
    (∃ r, s.err = none ∧ s.fetch = .error r ∧ t = (s.raise r).report) ∨
    (∃ op e, s.err = none ∧ s.fetch = .ok op ∧ decode op = .error e ∧
      t = s.advance.setStatus (.unknownOpcode op s.pc)) ∨
    (∃ op i u, s.err = none ∧ s.fetch = .ok op ∧ decode op = .ok i ∧ run i s = .next u ∧ t = u.report) := by
  cases he : s.err with
  | some r => rw [stepTransaction_halted he] at h; cases h; exact .inl ⟨r, rfl, rfl⟩
  | none =>
    cases hf : s.fetch with
    | error r => rw [stepTransaction_fetch_error he hf] at h; cases h; exact .inr (.inl ⟨r, rfl, rfl, rfl⟩)
    | ok op =>
      cases hd : decode op with
      | error e => rw [stepTransaction_unknown he hf hd] at h; cases h; exact .inr (.inr (.inl ⟨op, e, rfl, rfl, hd, rfl⟩))
      | ok i =>
        cases hr : run i s with
        | next u =>
          rw [stepTransaction_execute he hf hd hr] at h; cases h
          exact .inr (.inr (.inr ⟨op, i, u, rfl, rfl, hd, hr, rfl⟩))
        | fault f => cases f
        | refused r => simp [stepTransaction, he, hf, hd, hr] at h

/-- Executing with a given random byte is `exec` but for rand-mask (R106). -/
theorem execWith_cases (rnd : Byte) (i : Instr) (s : State) :
    execWith rnd i s = exec i s ∨ ∃ x nn, i = .rnd x nn ∧ execWith rnd i s = execRndWith rnd x nn s := by
  cases i with
  | rnd x nn => exact .inr ⟨x, nn, rfl, rfl⟩
  | _ => exact .inl rfl

/-! ### Index-relative access -/

/-- An access in range has its effect (R202). -/
theorem State.access_inRange {s e : State} {n : Nat} (h : s.base + n ≤ 0x1000) : s.access n e = .next e := by
  simp [State.access, firstOutOfRange_eq_none.mpr (.inl h)]

/-- An access out of range is the precise error at its first bad address (R202). -/
theorem State.access_outOfRange {s e : State} {n : Nat} (h : 0x1000 < s.base + n) (pos : 0 < n) :
    s.access n e = .next (s.raise (.outOfBounds s.pc .memory (max s.base 0x1000))) := by
  simp [State.access, firstOutOfRange_eq_some h pos]

/-! ### Registers -/

/-- A flag write and then a result write: the result wins where they meet (R23). -/
theorem State.reg_setFlagThenReg (s : State) (c : Bool) (x y : RegIdx) (f : State → Byte) :
    (s.setFlagThenReg c x f).reg y =
      if y = x then f (s.setFlag c) else if y = flagReg then flagByte c else s.reg y := by
  rw [State.setFlagThenReg, State.reg_setReg, State.reg_setFlag]

/-- A flag and result write touches the registers only. -/
theorem State.setFlagThenReg_eq (s : State) (c : Bool) (x : RegIdx) (f : State → Byte) :
    ∃ v, s.setFlagThenReg c x f = { s with V := v } := ⟨_, rfl⟩

/-- Loading registers touches the registers only. -/
theorem State.loadRegs_eq (s : State) (base : Nat) (x : RegIdx) : ∃ v, s.loadRegs base x = { s with V := v } := by
  suffices h : ∀ (l : List Nat) (t : State), ∃ v,
      l.foldl (fun t k => t.setReg (BitVec.ofNat 4 k) (Memory.read s.mem (base + k))) t = { t with V := v } by
    exact h _ s
  intro l
  induction l with
  | nil => intro t; exact ⟨t.V, rfl⟩
  | cons k l ih =>
    intro t
    obtain ⟨v, e⟩ := ih (t.setReg (BitVec.ofNat 4 k) (Memory.read s.mem (base + k)))
    exact ⟨v, e⟩

@[simp] theorem State.loadRegs_mem (s : State) (base : Nat) (x : RegIdx) : (s.loadRegs base x).mem = s.mem := by
  obtain ⟨v, e⟩ := s.loadRegs_eq base x; rw [e]
@[simp] theorem State.loadRegs_I (s : State) (base : Nat) (x : RegIdx) : (s.loadRegs base x).I = s.I := by
  obtain ⟨v, e⟩ := s.loadRegs_eq base x; rw [e]
@[simp] theorem State.loadRegs_pc (s : State) (base : Nat) (x : RegIdx) : (s.loadRegs base x).pc = s.pc := by
  obtain ⟨v, e⟩ := s.loadRegs_eq base x; rw [e]
@[simp] theorem State.loadRegs_stack (s : State) (base : Nat) (x : RegIdx) : (s.loadRegs base x).stack = s.stack := by
  obtain ⟨v, e⟩ := s.loadRegs_eq base x; rw [e]
@[simp] theorem State.loadRegs_sp (s : State) (base : Nat) (x : RegIdx) : (s.loadRegs base x).sp = s.sp := by
  obtain ⟨v, e⟩ := s.loadRegs_eq base x; rw [e]
@[simp] theorem State.loadRegs_dt (s : State) (base : Nat) (x : RegIdx) : (s.loadRegs base x).dt = s.dt := by
  obtain ⟨v, e⟩ := s.loadRegs_eq base x; rw [e]
@[simp] theorem State.loadRegs_st (s : State) (base : Nat) (x : RegIdx) : (s.loadRegs base x).st = s.st := by
  obtain ⟨v, e⟩ := s.loadRegs_eq base x; rw [e]
@[simp] theorem State.loadRegs_fb (s : State) (base : Nat) (x : RegIdx) : (s.loadRegs base x).fb = s.fb := by
  obtain ⟨v, e⟩ := s.loadRegs_eq base x; rw [e]
@[simp] theorem State.loadRegs_key (s : State) (base : Nat) (x : RegIdx) : (s.loadRegs base x).key = s.key := by
  obtain ⟨v, e⟩ := s.loadRegs_eq base x; rw [e]
@[simp] theorem State.loadRegs_redraw (s : State) (base : Nat) (x : RegIdx) : (s.loadRegs base x).redraw = s.redraw := by
  obtain ⟨v, e⟩ := s.loadRegs_eq base x; rw [e]
@[simp] theorem State.loadRegs_err (s : State) (base : Nat) (x : RegIdx) : (s.loadRegs base x).err = s.err := by
  obtain ⟨v, e⟩ := s.loadRegs_eq base x; rw [e]
@[simp] theorem State.loadRegs_status (s : State) (base : Nat) (x : RegIdx) : (s.loadRegs base x).status = s.status := by
  obtain ⟨v, e⟩ := s.loadRegs_eq base x; rw [e]
@[simp] theorem State.loadRegs_audible (s : State) (base : Nat) (x : RegIdx) : (s.loadRegs base x).audible = s.audible := by
  obtain ⟨v, e⟩ := s.loadRegs_eq base x; rw [e]
@[simp] theorem State.loadRegs_beep (s : State) (base : Nat) (x : RegIdx) : (s.loadRegs base x).beep = s.beep := by
  obtain ⟨v, e⟩ := s.loadRegs_eq base x; rw [e]
@[simp] theorem State.loadRegs_draws (s : State) (base : Nat) (x : RegIdx) : (s.loadRegs base x).draws = s.draws := by
  obtain ⟨v, e⟩ := s.loadRegs_eq base x; rw [e]

/-- The registers V0 to VX after a load, and the others (R206). -/
theorem State.reg_loadRegs (s : State) (base : Nat) (x y : RegIdx) : (s.loadRegs base x).reg y =
    if y.toNat ≤ x.toNat then Memory.read s.mem (base + y.toNat) else s.reg y := by
  suffices h : ∀ n, n ≤ 16 → ((List.range n).foldl
      (fun t k => t.setReg (BitVec.ofNat 4 k) (Memory.read s.mem (base + k))) s).reg y =
      if y.toNat < n then Memory.read s.mem (base + y.toNat) else s.reg y by
    have := h (x.toNat + 1) (by have := x.isLt; omega)
    simpa [State.loadRegs, Nat.lt_succ_iff] using this
  intro n
  induction n with
  | zero => intro _; simp
  | succ n ih =>
    intro hn
    rw [List.range_succ, List.foldl_append]
    simp only [List.foldl_cons, List.foldl_nil]
    rw [State.reg_setReg, ih (by omega)]
    have e : y = BitVec.ofNat 4 n ↔ y.toNat = n := by
      rw [← BitVec.toNat_inj, BitVec.toNat_ofNat, Nat.mod_eq_of_lt (by omega)]
    by_cases h : y.toNat = n
    · rw [if_pos (e.mpr h), if_pos (by omega), h]
    · rw [if_neg (fun c => h (e.mp c))]
      by_cases h' : y.toNat < n
      · rw [if_pos h', if_pos (by omega)]
      · rw [if_neg h', if_neg (by omega)]

@[simp] theorem State.length_regsUpTo (s : State) (x : RegIdx) : (s.regsUpTo x).length = x.toNat + 1 := by
  simp [State.regsUpTo]

/-- The `k`-th listed register is V[k] (R205). -/
theorem State.getElem_regsUpTo (s : State) (x : RegIdx) (k : Nat) (h : k < (s.regsUpTo x).length) :
    (s.regsUpTo x)[k] = s.reg (BitVec.ofNat 4 k) := by
  simp [State.regsUpTo]

@[simp] theorem length_bcdDigits (v : Byte) : (bcdDigits v).length = 3 := rfl

/-! ### Keys -/

/-- The key scan finds nothing exactly when no key is pressed, and otherwise the highest pressed key (R233). -/
theorem State.lastPressed_spec (s : State) : match s.lastPressed with
    | none => ∀ k < 16, s.keyAt k = false
    | some k => k < 16 ∧ s.keyAt k = true ∧ ∀ j < 16, k < j → s.keyAt j = false := by
  suffices h : ∀ n, match (List.range n).foldl (fun found k => if s.keyAt k then some k else found) none with
      | none => ∀ k < n, s.keyAt k = false
      | some k => k < n ∧ s.keyAt k = true ∧ ∀ j < n, k < j → s.keyAt j = false from h 16
  intro n
  induction n with
  | zero => simp
  | succ n ih =>
    rw [List.range_succ, List.foldl_append]
    simp only [List.foldl_cons, List.foldl_nil]
    by_cases hk : s.keyAt n = true
    · simp only [hk, if_true]
      exact ⟨by omega, trivial, fun j h1 h2 => by omega⟩
    · simp only [hk, Bool.false_eq_true, if_false]
      split at ih
      · intro k h
        rcases Nat.lt_succ_iff_lt_or_eq.mp h with h | rfl
        · exact ih k h
        · simpa using hk
      · next k _ =>
        refine ⟨by omega, ih.2.1, fun j h1 h2 => ?_⟩
        rcases Nat.lt_succ_iff_lt_or_eq.mp h1 with h | rfl
        · exact ih.2.2 j h h2
        · simpa using hk

/-- No key pressed: the scan finds nothing (R233). -/
theorem State.lastPressed_none {s : State} (h : ∀ k < 16, s.keyAt k = false) : s.lastPressed = none := by
  have spec := s.lastPressed_spec
  cases e : s.lastPressed with
  | none => rfl
  | some k => rw [e] at spec; simp [h k spec.1] at spec

/-- The highest pressed key is what the scan finds (R233). -/
theorem State.lastPressed_some {s : State} {k : Nat} (hk : k < 16) (pressed : s.keyAt k = true)
    (highest : ∀ j < 16, k < j → s.keyAt j = false) : s.lastPressed = some k := by
  have spec := s.lastPressed_spec
  cases e : s.lastPressed with
  | none => rw [e] at spec; simp [spec k hk] at pressed
  | some j =>
    rw [e] at spec
    rcases Nat.lt_trichotomy j k with h | h | h
    · simp [spec.2.2 k hk h] at pressed
    · rw [h]
    · simp [highest j spec.1 h] at spec

/-! ### Stack -/

/-- Popping what was just pushed gives it back, and the old depth (R142, R140). -/
theorem State.top_push (s : State) (w : Word) (room : s.sp.val < 16) :
    (s.push w room).top = w ∧ (s.push w room).pop.sp = s.sp := by
  refine ⟨?_, rfl⟩
  simp [State.top, State.push]

end Sys2Proof.Machine
end

