-- ==== Sys2Proof/Laws/Parts.lean ====
section
/-! SUPPORT. Which parts the part lists of a frame hold: the bytes, registers and cells outside them. -/

namespace Sys2Proof.Machine

/-- A byte outside a listed range lies below or above it. -/
theorem mem_not_mem_memParts {a base n : Nat} (h : Part.mem a ∉ memParts base n) : a < base ∨ base + n ≤ a := by
  by_contra hc
  exact h (List.mem_map.mpr ⟨a - base, by simp; omega, by simp; omega⟩)

/-- A register outside V0 to VX has a higher number. -/
theorem reg_not_mem_regParts {x y : RegIdx} (h : Part.reg y ∉ regParts x) : x.toNat < y.toNat := by
  by_contra hc
  exact h (List.mem_map.mpr ⟨y.toNat, by simp; omega, by simp⟩)

/-- A cell number outside the framebuffer reads as false in every framebuffer. -/
theorem cell_not_mem_cellParts {c : Nat} (h : Part.cell c ∉ cellParts) (fb : Framebuffer) : fb.cell c = false := by
  have hc : ¬ c < 2048 := fun lt => h (List.mem_map.mpr ⟨c, by simpa using lt, rfl⟩)
  simp only [Framebuffer.cell, Config.fbWidth]
  rw [dif_neg (by omega)]

theorem mem_memParts {p : Part} {base n : Nat} : p ∈ memParts base n ↔ ∃ k < n, p = .mem (base + k) := by
  simp only [memParts, List.mem_map, List.mem_range, eq_comm]

theorem mem_regParts {p : Part} {x : RegIdx} :
    p ∈ regParts x ↔ ∃ k < x.toNat + 1, p = .reg (BitVec.ofNat 4 k) := by
  simp only [regParts, List.mem_map, List.mem_range, eq_comm]

theorem mem_cellParts {p : Part} : p ∈ cellParts ↔ ∃ c < 2048, p = .cell c := by
  simp only [cellParts, Config.fbCells, List.mem_map, List.mem_range, eq_comm]

end Sys2Proof.Machine
end

