-- ==== Sys2Proof/Laws/PerInstr.lean ====
section
/-! SUPPORT. The per-instruction family EncodePlacesFields: the opcode of an instruction holds its family nibble, its
sub-code and each of its operands at the place the encoding gives them (spec/30_encoding.md R71, R74 to R78). -/

namespace Sys2Proof.Laws.EncodePlacesFields

/-- Every field of `encode i` is what the instruction's format puts there. -/
def Statement : Instr → Prop
  | .cls => encode .cls = 0x00E0
  | .ret => encode .ret = 0x00EE
  | .jp nnn => fieldF (encode (.jp nnn)) = 0x1 ∧ fieldNNN (encode (.jp nnn)) = nnn
  | .call nnn => fieldF (encode (.call nnn)) = 0x2 ∧ fieldNNN (encode (.call nnn)) = nnn
  | .seImm x nn => fieldF (encode (.seImm x nn)) = 0x3 ∧ fieldX (encode (.seImm x nn)) = x ∧ fieldNN (encode (.seImm x nn)) = nn
  | .sneImm x nn => fieldF (encode (.sneImm x nn)) = 0x4 ∧ fieldX (encode (.sneImm x nn)) = x ∧ fieldNN (encode (.sneImm x nn)) = nn
  | .seReg x y => fieldF (encode (.seReg x y)) = 0x5 ∧ fieldX (encode (.seReg x y)) = x ∧ fieldY (encode (.seReg x y)) = y ∧ fieldN (encode (.seReg x y)) = 0x0
  | .ldImm x nn => fieldF (encode (.ldImm x nn)) = 0x6 ∧ fieldX (encode (.ldImm x nn)) = x ∧ fieldNN (encode (.ldImm x nn)) = nn
  | .addImm x nn => fieldF (encode (.addImm x nn)) = 0x7 ∧ fieldX (encode (.addImm x nn)) = x ∧ fieldNN (encode (.addImm x nn)) = nn
  | .ldReg x y => fieldF (encode (.ldReg x y)) = 0x8 ∧ fieldX (encode (.ldReg x y)) = x ∧ fieldY (encode (.ldReg x y)) = y ∧ fieldN (encode (.ldReg x y)) = 0x0
  | .or x y => fieldF (encode (.or x y)) = 0x8 ∧ fieldX (encode (.or x y)) = x ∧ fieldY (encode (.or x y)) = y ∧ fieldN (encode (.or x y)) = 0x1
  | .and x y => fieldF (encode (.and x y)) = 0x8 ∧ fieldX (encode (.and x y)) = x ∧ fieldY (encode (.and x y)) = y ∧ fieldN (encode (.and x y)) = 0x2
  | .xor x y => fieldF (encode (.xor x y)) = 0x8 ∧ fieldX (encode (.xor x y)) = x ∧ fieldY (encode (.xor x y)) = y ∧ fieldN (encode (.xor x y)) = 0x3
  | .addReg x y => fieldF (encode (.addReg x y)) = 0x8 ∧ fieldX (encode (.addReg x y)) = x ∧ fieldY (encode (.addReg x y)) = y ∧ fieldN (encode (.addReg x y)) = 0x4
  | .sub x y => fieldF (encode (.sub x y)) = 0x8 ∧ fieldX (encode (.sub x y)) = x ∧ fieldY (encode (.sub x y)) = y ∧ fieldN (encode (.sub x y)) = 0x5
  | .shr x y => fieldF (encode (.shr x y)) = 0x8 ∧ fieldX (encode (.shr x y)) = x ∧ fieldY (encode (.shr x y)) = y ∧ fieldN (encode (.shr x y)) = 0x6
  | .subn x y => fieldF (encode (.subn x y)) = 0x8 ∧ fieldX (encode (.subn x y)) = x ∧ fieldY (encode (.subn x y)) = y ∧ fieldN (encode (.subn x y)) = 0x7
  | .shl x y => fieldF (encode (.shl x y)) = 0x8 ∧ fieldX (encode (.shl x y)) = x ∧ fieldY (encode (.shl x y)) = y ∧ fieldN (encode (.shl x y)) = 0xE
  | .sneReg x y => fieldF (encode (.sneReg x y)) = 0x9 ∧ fieldX (encode (.sneReg x y)) = x ∧ fieldY (encode (.sneReg x y)) = y ∧ fieldN (encode (.sneReg x y)) = 0x0
  | .ldI nnn => fieldF (encode (.ldI nnn)) = 0xA ∧ fieldNNN (encode (.ldI nnn)) = nnn
  | .jpV0 nnn => fieldF (encode (.jpV0 nnn)) = 0xB ∧ fieldNNN (encode (.jpV0 nnn)) = nnn
  | .rnd x nn => fieldF (encode (.rnd x nn)) = 0xC ∧ fieldX (encode (.rnd x nn)) = x ∧ fieldNN (encode (.rnd x nn)) = nn
  | .drw x y n => fieldF (encode (.drw x y n)) = 0xD ∧ fieldX (encode (.drw x y n)) = x ∧ fieldY (encode (.drw x y n)) = y ∧ fieldN (encode (.drw x y n)) = n
  | .skp x => fieldF (encode (.skp x)) = 0xE ∧ fieldX (encode (.skp x)) = x ∧ fieldNN (encode (.skp x)) = 0x9E
  | .sknp x => fieldF (encode (.sknp x)) = 0xE ∧ fieldX (encode (.sknp x)) = x ∧ fieldNN (encode (.sknp x)) = 0xA1
  | .ldVxDt x => fieldF (encode (.ldVxDt x)) = 0xF ∧ fieldX (encode (.ldVxDt x)) = x ∧ fieldNN (encode (.ldVxDt x)) = 0x07
  | .ldVxK x => fieldF (encode (.ldVxK x)) = 0xF ∧ fieldX (encode (.ldVxK x)) = x ∧ fieldNN (encode (.ldVxK x)) = 0x0A
  | .ldDtVx x => fieldF (encode (.ldDtVx x)) = 0xF ∧ fieldX (encode (.ldDtVx x)) = x ∧ fieldNN (encode (.ldDtVx x)) = 0x15
  | .ldStVx x => fieldF (encode (.ldStVx x)) = 0xF ∧ fieldX (encode (.ldStVx x)) = x ∧ fieldNN (encode (.ldStVx x)) = 0x18
  | .addIVx x => fieldF (encode (.addIVx x)) = 0xF ∧ fieldX (encode (.addIVx x)) = x ∧ fieldNN (encode (.addIVx x)) = 0x1E
  | .ldFVx x => fieldF (encode (.ldFVx x)) = 0xF ∧ fieldX (encode (.ldFVx x)) = x ∧ fieldNN (encode (.ldFVx x)) = 0x29
  | .ldBVx x => fieldF (encode (.ldBVx x)) = 0xF ∧ fieldX (encode (.ldBVx x)) = x ∧ fieldNN (encode (.ldBVx x)) = 0x33
  | .ldMemVx x => fieldF (encode (.ldMemVx x)) = 0xF ∧ fieldX (encode (.ldMemVx x)) = x ∧ fieldNN (encode (.ldMemVx x)) = 0x55
  | .ldVxMem x => fieldF (encode (.ldVxMem x)) = 0xF ∧ fieldX (encode (.ldVxMem x)) = x ∧ fieldNN (encode (.ldVxMem x)) = 0x65

theorem cls : Statement (.cls) := rfl
theorem ret : Statement (.ret) := rfl
theorem jp (nnn : BitVec 12) : Statement (.jp nnn) := by simp [Statement, encode]
theorem call (nnn : BitVec 12) : Statement (.call nnn) := by simp [Statement, encode]
theorem seImm (x : RegIdx) (nn : Byte) : Statement (.seImm x nn) := by simp [Statement, encode]
theorem sneImm (x : RegIdx) (nn : Byte) : Statement (.sneImm x nn) := by simp [Statement, encode]
theorem seReg (x : RegIdx) (y : RegIdx) : Statement (.seReg x y) := by simp [Statement, encode]
theorem ldImm (x : RegIdx) (nn : Byte) : Statement (.ldImm x nn) := by simp [Statement, encode]
theorem addImm (x : RegIdx) (nn : Byte) : Statement (.addImm x nn) := by simp [Statement, encode]
theorem ldReg (x : RegIdx) (y : RegIdx) : Statement (.ldReg x y) := by simp [Statement, encode]
theorem or (x : RegIdx) (y : RegIdx) : Statement (.or x y) := by simp [Statement, encode]
theorem and (x : RegIdx) (y : RegIdx) : Statement (.and x y) := by simp [Statement, encode]
theorem xor (x : RegIdx) (y : RegIdx) : Statement (.xor x y) := by simp [Statement, encode]
theorem addReg (x : RegIdx) (y : RegIdx) : Statement (.addReg x y) := by simp [Statement, encode]
theorem sub (x : RegIdx) (y : RegIdx) : Statement (.sub x y) := by simp [Statement, encode]
theorem shr (x : RegIdx) (y : RegIdx) : Statement (.shr x y) := by simp [Statement, encode]
theorem subn (x : RegIdx) (y : RegIdx) : Statement (.subn x y) := by simp [Statement, encode]
theorem shl (x : RegIdx) (y : RegIdx) : Statement (.shl x y) := by simp [Statement, encode]
theorem sneReg (x : RegIdx) (y : RegIdx) : Statement (.sneReg x y) := by simp [Statement, encode]
theorem ldI (nnn : BitVec 12) : Statement (.ldI nnn) := by simp [Statement, encode]
theorem jpV0 (nnn : BitVec 12) : Statement (.jpV0 nnn) := by simp [Statement, encode]
theorem rnd (x : RegIdx) (nn : Byte) : Statement (.rnd x nn) := by simp [Statement, encode]
theorem drw (x : RegIdx) (y : RegIdx) (n : BitVec 4) : Statement (.drw x y n) := by simp [Statement, encode]
theorem skp (x : RegIdx) : Statement (.skp x) := by simp [Statement, encode]
theorem sknp (x : RegIdx) : Statement (.sknp x) := by simp [Statement, encode]
theorem ldVxDt (x : RegIdx) : Statement (.ldVxDt x) := by simp [Statement, encode]
theorem ldVxK (x : RegIdx) : Statement (.ldVxK x) := by simp [Statement, encode]
theorem ldDtVx (x : RegIdx) : Statement (.ldDtVx x) := by simp [Statement, encode]
theorem ldStVx (x : RegIdx) : Statement (.ldStVx x) := by simp [Statement, encode]
theorem addIVx (x : RegIdx) : Statement (.addIVx x) := by simp [Statement, encode]
theorem ldFVx (x : RegIdx) : Statement (.ldFVx x) := by simp [Statement, encode]
theorem ldBVx (x : RegIdx) : Statement (.ldBVx x) := by simp [Statement, encode]
theorem ldMemVx (x : RegIdx) : Statement (.ldMemVx x) := by simp [Statement, encode]
theorem ldVxMem (x : RegIdx) : Statement (.ldVxMem x) := by simp [Statement, encode]

end Sys2Proof.Laws.EncodePlacesFields
end

