-- ==== Sys2Proof/Tests/Slice0.lean ====
section
/-! SUPPORT. The model's own tests: ill-formed terms, words written out from the encodings, single steps whose results
are the derived vectors of spec/95_test_vectors.md (cited by their ids), and states that meet each obligation's
hypotheses. -/

namespace Sys2Proof.Tests

open Sys2Proof.Machine

/-! ### Helpers -/

/-- The state with an opcode placed at its pc. -/
def place (op : Word) (s : State) : State := s.withFetchWord 16 op.toNat

/-- The state with one register set after reset. -/
def withReg (x : RegIdx) (a : Byte) : State := State.reset.setReg x a

/-- The state with two registers set after reset. -/
def withRegs (x y : RegIdx) (a b : Byte) : State := (State.reset.setReg x a).setReg y b

/-- One step on a placed word, and a check of the next state. -/
def after (op : Word) (s : State) (check : State → Bool) : Bool :=
  match step (place op s) with
  | .next t => check t
  | .fault _ => false
  | .refused _ => false

/-- The same with the host's random byte. -/
def afterWith (rnd : Byte) (op : Word) (s : State) (check : State → Bool) : Bool :=
  match stepWith rnd (place op s) with
  | .next t => check t
  | .fault _ => false
  | .refused _ => false

/-- The step latched this error and changed nothing else. -/
def raises (op : Word) (s : State) (r : ErrorRecord) : Bool :=
  after op s fun t => t == ((place op s).setErr (some r)).setStatus (.fatal r)

/-- A sprite's bytes at 0x300, the index there, and its origin in V0 and V1. -/
def spriteAt (rows : List Byte) (ox oy : Byte) : State :=
  ((withRegs 0 1 ox oy).setI 0x300).setMem (Memory.writeBytes [] 0x300 rows)

/-- The state with one cell set. -/
def withCell (c : Nat) (s : State) : State := s.setFb (s.fb.toggle c)

/-- The state with the stack pointer at `n` and every entry 0x204. -/
def withStack (n : Fin 17) : State := { State.reset with stack := Vector.replicate 16 0x204, sp := n }

/-! ### Well-formedness refuses each ill-formed term -/

theorem test_wellFormed_refuses_zero_family : wellFormedWord 0x00E1 = false := by decide
theorem test_wellFormed_refuses_skip_low_nibble : wellFormedWord 0x5121 = false ∧ wellFormedWord 0x9121 = false := by decide
theorem test_wellFormed_refuses_alu_sub_code : wellFormedWord 0x8128 = false ∧ wellFormedWord 0x800F = false := by decide
theorem test_wellFormed_refuses_key_sub_code : wellFormedWord 0xE09F = false := by decide
theorem test_wellFormed_refuses_misc_sub_code : wellFormedWord 0xF000 = false ∧ wellFormedWord 0xF0FF = false := by decide
theorem test_wellFormed_accepts_words : wellFormedWord 0x00E0 = true ∧ wellFormedWord 0xD125 = true ∧
    wellFormedWord 0x812E = true ∧ wellFormedWord 0xFF65 = true := by decide
theorem test_wellFormed_refuses_large_image : wellFormedImage (List.replicate 3585 0) = false ∧
    wellFormedImage (List.replicate 3584 0) = true ∧ wellFormedImage [] = true := by
  simp only [wellFormedImage, List.length_replicate]; decide
theorem test_wellFormed_refuses_key_16 : wellFormedKey 16 = false ∧ wellFormedKey 15 = true := by decide

/-! ### Words written out bit by bit from the encodings (R75 to R78) -/

theorem test_decode_cls : decode 0b0000000011100000 = .ok .cls := by decide
theorem test_decode_ret : decode 0b0000000011101110 = .ok .ret := by decide
theorem test_decode_jp : decode 0b0001001000110100 = .ok (.jp 0x234) := by decide
theorem test_decode_call : decode 0b0010001100000001 = .ok (.call 0x301) := by decide
theorem test_decode_seImm : decode 0b0011001100010000 = .ok (.seImm 3 0x10) := by decide
theorem test_decode_sneImm : decode 0b0100001100010001 = .ok (.sneImm 3 0x11) := by decide
theorem test_decode_seReg : decode 0b0101000100100000 = .ok (.seReg 1 2) := by decide
theorem test_decode_ldImm : decode 0b0110101001111011 = .ok (.ldImm 0xA 0x7B) := by decide
theorem test_decode_addImm : decode 0b0111111100000101 = .ok (.addImm 0xF 5) := by decide
theorem test_decode_ldReg : decode 0b1000000100100000 = .ok (.ldReg 1 2) := by decide
theorem test_decode_or : decode 0b1000000100100001 = .ok (.or 1 2) := by decide
theorem test_decode_and : decode 0b1000000100100010 = .ok (.and 1 2) := by decide
theorem test_decode_xor : decode 0b1000000100100011 = .ok (.xor 1 2) := by decide
theorem test_decode_addReg : decode 0b1000001000110100 = .ok (.addReg 2 3) := by decide
theorem test_decode_sub : decode 0b1000000100100101 = .ok (.sub 1 2) := by decide
theorem test_decode_shr : decode 0b1000010001010110 = .ok (.shr 4 5) := by decide
theorem test_decode_subn : decode 0b1000000100100111 = .ok (.subn 1 2) := by decide
theorem test_decode_shl : decode 0b1000010001011110 = .ok (.shl 4 5) := by decide
theorem test_decode_sneReg : decode 0b1001000100100000 = .ok (.sneReg 1 2) := by decide
theorem test_decode_ldI : decode 0b1010001100000001 = .ok (.ldI 0x301) := by decide
theorem test_decode_jpV0 : decode 0b1011010100000010 = .ok (.jpV0 0x502) := by decide
theorem test_decode_rnd : decode 0b1100001100001111 = .ok (.rnd 3 0x0F) := by decide
theorem test_decode_drw : decode 0b1101000100100101 = .ok (.drw 1 2 5) := by decide
theorem test_decode_skp : decode 0b1110010110011110 = .ok (.skp 5) := by decide
theorem test_decode_sknp : decode 0b1110010110100001 = .ok (.sknp 5) := by decide
theorem test_decode_ldVxDt : decode 0b1111001100000111 = .ok (.ldVxDt 3) := by decide
theorem test_decode_ldVxK : decode 0b1111010100001010 = .ok (.ldVxK 5) := by decide
theorem test_decode_ldDtVx : decode 0b1111001000010101 = .ok (.ldDtVx 2) := by decide
theorem test_decode_ldStVx : decode 0b1111000100011000 = .ok (.ldStVx 1) := by decide
theorem test_decode_addIVx : decode 0b1111001000011110 = .ok (.addIVx 2) := by decide
theorem test_decode_ldFVx : decode 0b1111001000101001 = .ok (.ldFVx 2) := by decide
theorem test_decode_ldBVx : decode 0b1111101100110011 = .ok (.ldBVx 0xB) := by decide
theorem test_decode_ldMemVx : decode 0b1111000101010101 = .ok (.ldMemVx 1) := by decide
theorem test_decode_ldVxMem : decode 0b1111001001100101 = .ok (.ldVxMem 2) := by decide

/-- R79's unknown sets, one word each (vectors S6, S7, S9 to S11). -/
theorem test_decode_unknown : [0x0123, 0x0000, 0x5121, 0x9121, 0x8128, 0x800F, 0xE09F, 0xF0FF, 0xF000, 0x00FE].all
    (fun op : Word => decode op == .error (.unknownOpcode op)) = true := by decide

/-- An opcode needs two bytes, and the high one comes first (R52, R70). -/
theorem test_decodeBytes : decodeBytes [0x61, 0x02, 0xFF] = .ok (.ldImm 1 2, [0xFF]) ∧
    decodeBytes [0x61] = .error .truncated := by decide

/-- The table numbering puts the family nibble in bits 15 to 12 of one 16-bit word. -/
theorem test_decodeTableWord : decodeTableWord 16 0x8234 = some (.addReg 2 3) ∧ decodeTableWord 16 0x5121 = none := by
  decide

/-! ### Single steps: the sequencer (L2.1) -/

/-- S1: a latched error halts the step. -/
theorem test_step_halted : after 0x6001 (withReg 0 9) (fun t => t.reg 0 == 1 && t.status == .ok) = true ∧
    step ((place 0x6001 State.reset).setErr (some (.stackUnderflow 0x200))) =
      .next (((place 0x6001 State.reset).setErr (some (.stackUnderflow 0x200))).setStatus
        (.halted (.stackUnderflow 0x200))) := ⟨by decide, rfl⟩

/-- S2: a fetch at 0xFFF is out of bounds. -/
theorem test_step_fetch_out_of_bounds : step (State.reset.setPc 0xFFF) =
    .next (((State.reset.setPc 0xFFF).setErr (some (.outOfBounds 0xFFF .fetch 0xFFF))).setStatus
      (.fatal (.outOfBounds 0xFFF .fetch 0xFFF))) := rfl

/-- S5: an odd pc fetches like any other. -/
theorem test_step_odd_pc : after 0x602A (State.reset.setPc 0x201) (fun t => t.reg 0 == 0x2A && t.pc == 0x203) = true := by
  decide

/-- S6, S7: an unknown opcode is reported and skipped; the first word after reset is one. -/
theorem test_step_unknown :
    after 0x0123 State.reset (fun t => t.status == .unknownOpcode 0x0123 0x200 && t.pc == 0x202 && t.err == none) = true ∧
    (match step State.reset with
      | .next t => t.status == .unknownOpcode 0x0000 0x200 && t.pc == 0x202
      | _ => false) = true := by decide

/-- S8: an unknown opcode at 0xFFE leaves pc = 0x1000. -/
theorem test_step_unknown_at_top : after 0xFFFF (State.reset.setPc 0xFFE)
    (fun t => t.status == .unknownOpcode 0xFFFF 0xFFE && t.pc == 0x1000) = true := by decide

/-- The placed word is the one that runs, at a legal pc and after an illegal one. -/
theorem test_withFetchWord : after 0x6A7B State.reset (fun t => t.reg 0xA == 0x7B && t.pc == 0x202) = true ∧
    after 0x6A7B (State.reset.setPc 0xFFF) (fun t => t.reg 0xA == 0x7B && t.pc == 0x202) = true := by decide

/-- The codes of the error table (R301). -/
theorem test_status_codes : [Status.ok, .unknownOpcode 0 0, .fatal (.stackOverflow 0), .fatal (.stackUnderflow 0),
    .fatal (.outOfBounds 0 .fetch 0), .fatal (.loadError 0), .halted (.loadError 0)].map Status.code = [0, 1, 2, 3, 4, 5, 6] := by
  decide

/-! ### Single steps: the display (L2.2) -/

/-- D1, D2. -/
theorem test_cls : after 0x00E0 (withCell 5 State.reset) (fun t => t.fb == Framebuffer.clear && t.redraw && t.pc == 0x202) = true ∧
    after 0x00E0 State.reset (fun t => t.redraw && t.reg 0xF == 0) = true := by decide

/-- D3, D4, D5, D14: the cell, the collision, and an origin read from VF. -/
theorem test_drw_cell :
    after 0xD011 (spriteAt [0x80] 2 3) (fun t => t.fb == (withCell 194 State.reset).fb && t.reg 0xF == 0 && t.redraw) = true ∧
    after 0xD011 (withCell 194 (spriteAt [0x80] 2 3)) (fun t => t.fb == Framebuffer.clear && t.reg 0xF == 1) = true ∧
    after 0xD011 ((withCell 195 (spriteAt [0x80] 2 3)).setReg 0xF 1) (fun t => t.fb.cell 194 && t.fb.cell 195 && t.reg 0xF == 0) = true ∧
    after 0xDF11 ((spriteAt [0x80] 2 0).setReg 0xF 5) (fun t => t.fb == (withCell 5 State.reset).fb && t.reg 0xF == 0) = true := by
  decide

/-- D6 to D8, D11: no rows, a row that runs on into the next one, the last cells, and clear bits past them. -/
theorem test_drw_edges :
    after 0xD010 ((withReg 0xF 1).setI 0x1000) (fun t => t.reg 0xF == 0 && t.redraw && t.pc == 0x202 && t.err == none) = true ∧
    after 0xD011 (spriteAt [0xFF] 60 0) (fun t => t.fb.cell 60 && t.fb.cell 67 && !t.fb.cell 68 && !t.fb.cell 59) = true ∧
    after 0xD011 (spriteAt [0xFF] 56 31) (fun t => t.fb.cell 2040 && t.fb.cell 2047 && !t.fb.cell 2039) = true ∧
    after 0xD011 (spriteAt [0x00] 0 40) (fun t => t.fb == Framebuffer.clear && t.redraw && t.err == none) = true := by
  decide

/-- D9, D10, D12, D13: the first violation in loop order, with nothing else changed. -/
theorem test_drw_violations :
    raises 0xD011 (spriteAt [0xC0] 63 31) (.outOfBounds 0x200 .framebuffer 2048) = true ∧
    raises 0xD011 (spriteAt [0x80] 0 32) (.outOfBounds 0x200 .framebuffer 2048) = true ∧
    raises 0xD012 ((State.reset.setI 0xFFF).setMem (Memory.write [] 0xFFF 0x80)) (.outOfBounds 0x200 .memory 0x1000) = true ∧
    raises 0xD012 (((withRegs 0 1 63 31).setI 0xFFF).setMem (Memory.write [] 0xFFF 0xC0))
      (.outOfBounds 0x200 .framebuffer 2048) = true := by decide

/-- D15: glyph 0 of the default FONT (assumption 4): cells 0 to 3 of rows 0 and 4, cells 0 and 3 of rows 1 to 3. -/
theorem test_drw_glyph : after 0xD015 State.reset (fun t => t.fb.toList == [0b1111, 0b1001, 0b1001, 0b1001, 0b1111] ++
    List.replicate 27 0) = true := by decide

/-! ### Single steps: control flow (L2.3) -/

/-- C1, C2, C3. -/
theorem test_ret : raises 0x00EE State.reset (.stackUnderflow 0x200) = true ∧
    after 0x00EE (withStack 1) (fun t => t.sp == 0 && t.pc == 0x206 && t.stack == (withStack 1).stack) = true := by
  decide

/-- C4, C5, C6. -/
theorem test_call : after 0x2300 (State.reset.setPc 0x204)
      (fun t => t.stack == (State.reset.setStack 0 0x204).stack && t.sp == 1 && t.pc == 0x300) = true ∧
    after 0x2300 (withStack 15) (fun t => t.stack == ((withStack 15).setStack 15 0x200).stack && t.sp == 16) = true ∧
    raises 0x2300 (withStack 16) (.stackOverflow 0x200) = true := by decide

/-- C7, C8, C9. -/
theorem test_jp : after 0x1234 State.reset (fun t => t.pc == 0x234) = true ∧
    after 0x1200 State.reset (fun t => t == place 0x1200 State.reset) = true ∧
    after 0x1FFF State.reset (fun t => t.pc == 0xFFF && t.err == none) = true := by decide

/-- C24, C25: the offset is V0, whatever the X nibble holds. -/
theorem test_jpV0 : after 0xBFFF (withReg 0 0xFF) (fun t => t.pc == 0x10FE) = true ∧
    after 0xB500 (withRegs 0 5 0x01 0x40) (fun t => t.pc == 0x501) = true := by decide

/-- C11, C12, C21, C22. -/
theorem test_seImm : after 0x3310 (withReg 3 0x10) (fun t => t.pc == 0x204) = true ∧
    after 0x3311 (withReg 3 0x10) (fun t => t.pc == 0x202) = true ∧
    after 0x3000 (State.reset.setPc 0xFFE) (fun t => t.pc == 0x1002) = true ∧
    after 0x3F01 (withReg 0xF 1) (fun t => t.pc == 0x204) = true := by decide

/-- C13, C14. -/
theorem test_sneImm : after 0x4311 (withReg 3 0x10) (fun t => t.pc == 0x204) = true ∧
    after 0x4310 (withReg 3 0x10) (fun t => t.pc == 0x202) = true := by decide

/-- C15, C16, C17. -/
theorem test_seReg : after 0x5120 (withRegs 1 2 7 7) (fun t => t.pc == 0x204) = true ∧
    after 0x5120 (withRegs 1 2 7 8) (fun t => t.pc == 0x202) = true ∧
    after 0x5110 State.reset (fun t => t.pc == 0x204) = true := by decide

/-- C18, C19, C20. -/
theorem test_sneReg : after 0x9120 (withRegs 1 2 7 8) (fun t => t.pc == 0x204) = true ∧
    after 0x9120 (withRegs 1 2 7 7) (fun t => t.pc == 0x202) = true ∧
    after 0x9110 State.reset (fun t => t.pc == 0x202) = true := by decide

/-! ### Single steps: the ALU (L2.4) -/

/-- A1, A2. -/
theorem test_ldImm : after 0x6A7B State.reset (fun t => t.V == (withReg 0xA 0x7B).V) = true ∧
    after 0x6FFF State.reset (fun t => t.reg 0xF == 0xFF) = true := by decide

/-- A3, A4, A5. -/
theorem test_addImm : after 0x70FF (withReg 0 5) (fun t => t.reg 0 == 4) = true ∧
    after 0x7001 (withReg 0 0xFF) (fun t => t.reg 0 == 0 && t.reg 0xF == 0) = true ∧
    after 0x7F05 (withReg 0xF 0x10) (fun t => t.reg 0xF == 0x15) = true := by decide

/-- A6. -/
theorem test_ldReg : after 0x8120 (withReg 2 9) (fun t => t.V == (withRegs 1 2 9 9).V) = true := by decide

/-- A7. -/
theorem test_or : after 0x8121 ((withRegs 1 2 0x0F 0xF0).setReg 0xF 1) (fun t => t.reg 1 == 0xFF && t.reg 0xF == 1) = true := by
  decide

/-- A8. -/
theorem test_and : after 0x8122 ((withRegs 1 2 0x3C 0x0F).setReg 0xF 1) (fun t => t.reg 1 == 0x0C && t.reg 0xF == 1) = true := by
  decide

/-- A9, A10. -/
theorem test_xor : after 0x8123 (withRegs 1 2 0x3C 0x0F) (fun t => t.reg 1 == 0x33) = true ∧
    after 0x8113 (withReg 1 0x3C) (fun t => t.reg 1 == 0) = true := by decide

/-- A11, A12, L1-2. -/
theorem test_addReg : after 0x8234 (withRegs 2 3 0xF0 0x20) (fun t => t.reg 2 == 0x10 && t.reg 0xF == 1) = true ∧
    after 0x8114 (withReg 1 0x90) (fun t => t.reg 1 == 0x20 && t.reg 0xF == 1) = true ∧
    after 0x8124 (withRegs 1 2 0x7F 0x80) (fun t => t.reg 1 == 0xFF && t.reg 0xF == 0) = true := by decide

/-- A20, A21, A22: X or Y is VF. -/
theorem test_addReg_flag : after 0x8F14 (withRegs 0xF 1 0x80 0x90) (fun t => t.reg 0xF == 0x91) = true ∧
    after 0x81F4 (withRegs 1 0xF 0x80 0x90) (fun t => t.reg 1 == 0x81 && t.reg 0xF == 0x01) = true ∧
    after 0x8FF4 (withReg 0xF 0x90) (fun t => t.reg 0xF == 0x02) = true := by decide

/-- A13, A14, A15. -/
theorem test_sub : after 0x8125 (withRegs 1 2 5 3) (fun t => t.reg 1 == 2 && t.reg 0xF == 1) = true ∧
    after 0x8125 (withRegs 1 2 0 1) (fun t => t.reg 1 == 0xFF && t.reg 0xF == 0) = true ∧
    after 0x8125 (withRegs 1 2 7 7) (fun t => t.reg 1 == 0 && t.reg 0xF == 1) = true := by decide

/-- A23 to A26: X or Y is VF. -/
theorem test_sub_flag : after 0x8F15 (withRegs 0xF 1 5 3) (fun t => t.reg 0xF == 0xFE) = true ∧
    after 0x8F15 (withRegs 0xF 1 3 5) (fun t => t.reg 0xF == 0xFB) = true ∧
    after 0x81F5 (withRegs 1 0xF 5 3) (fun t => t.reg 1 == 4 && t.reg 0xF == 1) = true ∧
    after 0x8FF5 (withReg 0xF 7) (fun t => t.reg 0xF == 0) = true := by decide

/-- A16, A33: Y is not read. -/
theorem test_shr : after 0x8456 (withRegs 4 5 0x05 0xFF) (fun t => t.reg 4 == 2 && t.reg 5 == 0xFF && t.reg 0xF == 1) = true ∧
    after 0x8106 (withReg 1 1) (fun t => t.reg 1 == 0 && t.reg 0xF == 1) = true := by decide

/-- A30: X is VF. -/
theorem test_shr_flag : after 0x8F06 (withReg 0xF 3) (fun t => t.reg 0xF == 0) = true := by decide

/-- A17, A18. -/
theorem test_subn : after 0x8127 (withRegs 1 2 3 5) (fun t => t.reg 1 == 2 && t.reg 0xF == 1) = true ∧
    after 0x8127 (withRegs 1 2 5 3) (fun t => t.reg 1 == 0xFE && t.reg 0xF == 0) = true := by decide

/-- A27, A28, A29: X or Y is VF. -/
theorem test_subn_flag : after 0x8F17 (withRegs 0xF 1 3 5) (fun t => t.reg 0xF == 4) = true ∧
    after 0x81F7 (withRegs 1 0xF 3 5) (fun t => t.reg 1 == 0xFE && t.reg 0xF == 1) = true ∧
    after 0x81F7 (withRegs 1 0xF 5 3) (fun t => t.reg 1 == 0xFB && t.reg 0xF == 0) = true := by decide

/-- A19, A34. -/
theorem test_shl : after 0x840E (withReg 4 0x81) (fun t => t.reg 4 == 2 && t.reg 0xF == 1) = true ∧
    after 0x810E (withReg 1 0x80) (fun t => t.reg 1 == 0 && t.reg 0xF == 1) = true := by decide

/-- A31, A32: X is VF. -/
theorem test_shl_flag : after 0x8F0E (withReg 0xF 0x81) (fun t => t.reg 0xF == 2) = true ∧
    after 0x8F0E (withReg 0xF 0x41) (fun t => t.reg 0xF == 0) = true := by decide

/-- A35, A36, A37, S14: the host's random byte, masked; no other instruction takes it. -/
theorem test_rnd : afterWith 0xA5 0xC30F State.reset (fun t => t.reg 3 == 0x05 && t.pc == 0x202) = true ∧
    afterWith 0xFF 0xC300 State.reset (fun t => t.reg 3 == 0) = true ∧
    afterWith 0x5A 0xC3FF State.reset (fun t => t.reg 3 == 0x5A) = true ∧
    afterWith 0xFF 0x6001 State.reset (fun t => t.reg 0 == 1) = true := by decide

/-! ### Single steps: index and memory (L2.5) -/

/-- M1, M2. -/
theorem test_ldI : after 0xA300 State.reset (fun t => t.I == 0x300) = true ∧
    after 0xAFFF State.reset (fun t => t.I == 0xFFF && t.err == none) = true := by decide

/-- M3 to M7. -/
theorem test_addIVx : after 0xF21E ((withReg 2 0x20).setI 0xFF0) (fun t => t.I == 0x1010 && t.reg 0xF == 1) = true ∧
    after 0xF21E ((withRegs 2 0xF 0x20 1).setI 0x100) (fun t => t.I == 0x120 && t.reg 0xF == 0) = true ∧
    after 0xF21E ((withReg 2 1).setI 0xFFFF) (fun t => t.I == 0 && t.reg 0xF == 1) = true ∧
    after 0xF21E ((withReg 2 0).setI 0x1234) (fun t => t.I == 0x1234 && t.reg 0xF == 1) = true := by decide

/-- M8, M9: X is VF. -/
theorem test_addIVx_flag : after 0xFF1E ((withReg 0xF 2).setI 0xFFF) (fun t => t.I == 0x1000 && t.reg 0xF == 1) = true ∧
    after 0xFF1E ((withReg 0xF 2).setI 0x100) (fun t => t.I == 0x100 && t.reg 0xF == 0) = true := by decide

/-- M10, M11, M12. -/
theorem test_ldFVx : after 0xF029 (withReg 0 0x0A) (fun t => t.I == 0x032) = true ∧
    after 0xF029 (withReg 0 0x10) (fun t => t.I == 0x050) = true ∧
    after 0xF029 (withReg 0 0xFF) (fun t => t.I == 0x4FB) = true := by decide

/-- L1-5, M13, M14. -/
theorem test_ldBVx : after 0xF333 ((withReg 3 0xFF).setI 0x300)
      (fun t => Memory.read t.mem 0x300 == 2 && Memory.read t.mem 0x301 == 5 && Memory.read t.mem 0x302 == 5 && t.I == 0x300) = true ∧
    after 0xF333 ((withReg 3 128).setI 0xFFD)
      (fun t => Memory.read t.mem 0xFFD == 1 && Memory.read t.mem 0xFFE == 2 && Memory.read t.mem 0xFFF == 8) = true := by
  decide

/-- M15. -/
theorem test_ldBVx_out_of_range : raises 0xF333 ((withReg 3 0xFF).setI 0xFFE) (.outOfBounds 0x200 .memory 0x1000) = true := by
  decide

/-- M16, M17. -/
theorem test_ldMemVx : after 0xF155 ((withRegs 0 1 1 2).setI 0x300)
      (fun t => Memory.read t.mem 0x300 == 1 && Memory.read t.mem 0x301 == 2 && Memory.read t.mem 0x302 == 0 && t.I == 0x302) = true ∧
    after 0xFF55 ((withReg 0xF 7).setI 0xFF0) (fun t => Memory.read t.mem 0xFFF == 7 && t.I == 0x1000) = true := by
  decide

/-- M19. -/
theorem test_ldMemVx_out_of_range : raises 0xFF55 ((withReg 0 1).setI 0xFF1) (.outOfBounds 0x200 .memory 0x1000) = true := by
  decide

/-- M20, M21. -/
theorem test_ldVxMem : after 0xF265 (spriteAt [1, 2, 3] 9 9)
      (fun t => t.reg 0 == 1 && t.reg 1 == 2 && t.reg 2 == 3 && t.reg 3 == 0 && t.I == 0x303) = true ∧
    after 0xFF65 ((State.reset.setI 0x300).setMem (Memory.write [] 0x30F 0x42)) (fun t => t.reg 0xF == 0x42 && t.I == 0x310) = true := by
  decide

/-- M22. -/
theorem test_ldVxMem_out_of_range : raises 0xF065 (State.reset.setI 0x1000) (.outOfBounds 0x200 .memory 0x1000) = true := by
  decide

/-! ### Single steps: input and timers (L2.6, L2.7) -/

/-- K1, K2, K5. -/
theorem test_skp : after 0xE59E ((withReg 5 3).setKey 3 true) (fun t => t.pc == 0x204) = true ∧
    after 0xE59E (withReg 5 3) (fun t => t.pc == 0x202) = true ∧
    raises 0xE59E (withReg 5 16) (.outOfBounds 0x200 .key 16) = true := by decide

/-- K3, K4, K6. -/
theorem test_sknp : after 0xE5A1 (withReg 5 3) (fun t => t.pc == 0x204) = true ∧
    after 0xE5A1 ((withReg 5 3).setKey 3 true) (fun t => t.pc == 0x202) = true ∧
    raises 0xE5A1 (withReg 5 0xFF) (.outOfBounds 0x200 .key 255) = true := by decide

/-- K7, K8, K10, K11. -/
theorem test_ldVxK : after 0xF00A (withReg 0 0x77) (fun t => t == place 0xF00A (withReg 0 0x77)) = true ∧
    after 0xF00A ((State.reset.setKey 3 true).setKey 9 true) (fun t => t.reg 0 == 9 && t.pc == 0x202) = true ∧
    after 0xF00A ((State.reset.setKey 15 true).setKey 0 true) (fun t => t.reg 0 == 15) = true ∧
    after 0xFF0A (State.reset.setKey 5 true) (fun t => t.reg 0xF == 5) = true := by decide

/-- T1. -/
theorem test_ldVxDt : after 0xF307 (State.reset.setDt 0x3C) (fun t => t.reg 3 == 0x3C && t.dt == 0x3C) = true := by
  decide

/-- T2, T11. -/
theorem test_ldDtVx : after 0xF015 (withReg 0 9) (fun t => t.dt == 9 && t.st == 0) = true ∧
    after 0xF015 (State.reset.setDt 7) (fun t => t.dt == 0) = true := by decide

/-- T3. -/
theorem test_ldStVx : after 0xF118 (withReg 1 2) (fun t => t.st == 2 && t.dt == 0) = true := by decide

/-- T4 to T9. -/
theorem test_tick : (State.reset.tick == State.reset) = true ∧
    (((State.reset.setDt 5).tick == State.reset.setDt 4)) = true ∧
    ((State.reset.setSt 2).tick == (State.reset.setSt 1).setSound true false) = true ∧
    ((State.reset.setSt 1).tick == State.reset.setSound true true) = true ∧
    (((State.reset.setDt 1).setSt 0xFF).tick == (State.reset.setSt 0xFE).setSound true false) = true := by decide

/-! ### The host's transactions (L2.8) -/

/-- H2, H4: the image is copied and nothing else moves. -/
theorem test_load : ((State.reset.load [0x60, 0x05, 0x12, 0x02]).mem = [(0x200, 0x60), (0x201, 0x05), (0x202, 0x12), (0x203, 0x02)]) ∧
    (((withReg 0 5).setPc 0x202).load [0xAA]).pc = 0x202 := by decide

/-- H3, H1: an empty image changes nothing; reset forgets an error. -/
theorem test_load_empty_and_reset : ((State.reset.load [] == State.reset)) = true ∧
    (((withReg 3 7).setErr (some (.loadError 3585))).doReset == State.reset) = true := by decide

/-- H9, H10. -/
theorem test_setKey_clearRedraw : (State.reset.setKey 7 true).keyAt 7 = true ∧ (State.reset.setKey 7 true).keyAt 6 = false ∧
    (State.reset.setRedraw true).clearRedraw = State.reset := by decide

/-! ### States and operands that meet the obligations' hypotheses

Each theorem names the obligation whose hypotheses it meets, all of them together; where an obligation has several clauses,
one at each clause, at the ends of its range. -/

/-- What a fetch at the placed word's pc decodes to. -/
theorem fetches_place {op : Word} {s : State} {i : Instr} (hf : (place op s).fetch = .ok op) (hd : decode op = .ok i) :
    (place op s).Fetches i := ⟨op, hf, hd⟩

theorem test_witness_EveryStepKeepsTheInvariant :
    (place 0x6A7B State.reset).Inv ∧ ∃ t, step (place 0x6A7B State.reset) = .next t :=
  ⟨by unfold State.Inv; decide, _, rfl⟩

theorem test_witness_EveryTransactionKeepsTheInvariant :
    (withStack 0).Inv ∧ ∃ t, perform (.load [0x60, 0x05]) (withStack 0) = .next t :=
  ⟨by unfold State.Inv; decide, _, rfl⟩

theorem test_witness_EncodeOfDecodeGivesTheWordBack : decode 0xF165 = .ok (.ldVxMem 1) := by decide

theorem test_witness_StepRunsTheDecodedInstruction : ∀ s ∈ [place 0x00E0 State.reset, place 0x00E0 (State.reset.setPc 0xFFE)],
    s.err = none ∧ s.pc.toNat ≤ 0xFFE ∧
    decode (opcodeOfBytes (Memory.read s.mem s.pc.toNat) (Memory.read s.mem (s.pc.toNat + 1))) = .ok .cls := by decide

theorem test_witness_FetchReadsTheBigEndianWordAtPc :
    (State.reset.setPc 0xFFE).pc.toNat ≤ 0xFFE ∧
    (0xFFE < (State.reset.setPc 0xFFF).pc.toNat ∧ (State.reset.setPc 0xFFF).err = none) := by decide

theorem test_witness_UnknownOpcodeIsReportedAndSkipped :
    (State.reset.err = none ∧ State.reset.fetch = .ok 0x0000 ∧ decode 0x0000 = .error (.unknownOpcode 0x0000)) ∧
    let s := place 0xFFFF (State.reset.setPc 0xFFE)
    s.err = none ∧ s.fetch = .ok 0xFFFF ∧ decode 0xFFFF = .error (.unknownOpcode 0xFFFF) ∧ s.pc = 0xFFE :=
  ⟨⟨rfl, rfl, by decide⟩, rfl, rfl, by decide, rfl⟩

theorem test_witness_LatchedErrorHaltsEveryStepUntilReset :
    let s := State.reset.setErr (some (.loadError 3585))
    s.err = some (.loadError 3585) ∧ (∃ t, perform .tick s = .next t) ∧ ∃ t, perform .reset s = .next t :=
  ⟨rfl, ⟨_, rfl⟩, _, rfl⟩

theorem test_witness_OnlyRandMaskReadsTheRandomByte :
    (∀ x nn, ¬ State.reset.Fetches (.rnd x nn)) ∧
    (place 0xC30F State.reset).err = none ∧ (place 0xC30F State.reset).Fetches (.rnd 3 0x0F) := by
  refine ⟨fun x nn h => ?_, rfl, fetches_place rfl (by decide)⟩
  obtain ⟨op, hf, hd⟩ := h
  cases hf
  cases hd

theorem test_witness_FatalErrorsArePrecise :
    State.reset.err = none ∧ (State.reset.setErr (some (.stackUnderflow 0x200))).err = some (.stackUnderflow 0x200) ∧
    exec .ret State.reset = .next (State.reset.setErr (some (.stackUnderflow 0x200))) ∧
    (∃ t, stepWith 0 (place 0x00EE State.reset) = .next t ∧ t.err = some (.stackUnderflow 0x200)) :=
  ⟨rfl, rfl, rfl, _, rfl, rfl⟩

/-- One instruction of each kind that raises. -/
theorem test_witness_OnlyTheListedInstructionsRaise :
    ∀ c ∈ [(Instr.call 0x300, withStack 16), (.ret, State.reset), (.drw 0 1 1, spriteAt [0xC0] 63 31),
      (.drw 0 1 1, State.reset.setI 0x1000), (.ldBVx 3, State.reset.setI 0xFFE), (.ldMemVx 15, State.reset.setI 0xFF1),
      (.ldVxMem 0, State.reset.setI 0x1000), (.skp 5, withReg 5 16), (.sknp 5, withReg 5 0xFF)],
    c.2.err = none ∧ (match exec c.1 c.2 with
      | .next t => t.err.isSome
      | _ => false) = true := by decide

theorem test_witness_EveryInstructionWritesOnlyWhatItMay :
    (∃ t, exec (.ldMemVx 15) ((withReg 0xF 7).setI 0xFF0) = .next t) ∧ ∃ t, exec (.drw 0 1 1) (spriteAt [0x80] 2 3) = .next t :=
  ⟨⟨_, rfl⟩, _, rfl⟩

/-- VF changes by a flag, by a destination, and by a load. -/
theorem test_witness_OnlySevenInstructionsWriteTheFlagImplicitly :
    ∀ c ∈ [(Instr.addReg 2 3, withRegs 2 3 0xF0 0x20), (.addIVx 2, State.reset.setI 0x1234), (.ldImm 0xF 9, State.reset),
      (.or 0xF 1, withReg 1 5), (.ldVxK 0xF, State.reset.setKey 5 true),
      (.ldVxMem 0xF, (State.reset.setI 0x300).setMem (Memory.write [] 0x30F 0x42))],
    (match exec c.1 c.2 with
      | .next t => t.reg 0xF != c.2.reg 0xF
      | _ => false) = true := by decide

theorem test_witness_NoInstructionReadsSoundTimerRedrawOrLatch :
    (∃ t, exec (.addReg 2 3) State.reset = .next t) ∧
    ∃ t, exec (.addReg 2 3) ((((State.reset.setSt 9).setRedraw true).setErr (some (.loadError 4000))).setStatus .ok) = .next t :=
  ⟨⟨_, rfl⟩, _, rfl⟩

theorem spriteFits_of {x y : RegIdx} {n : BitVec 4} {s : State} (h : ∀ r < n.toNat, s.base + r ≤ 0xFFF ∧
    ∀ c < 8, s.spriteBit r c = true → s.spriteCell x y r c < 2048) : s.SpriteFits x y n := h

/-- A sprite of 15 rows, one whose last pixel is the last cell, one whose row is the last byte, and one of no rows. -/
theorem test_witness_DrawSpriteXorsTheSpriteAndReportsCollision :
    (State.reset).SpriteFits 0 1 15 ∧ (spriteAt [0xFF] 56 31).SpriteFits 0 1 1 ∧
    (State.reset.setI 0xFFF).SpriteFits 0 1 1 ∧ (State.reset.setI 0xFFFF).SpriteFits 0 1 0 :=
  ⟨spriteFits_of (by decide), spriteFits_of (by decide), spriteFits_of (by decide), spriteFits_of (by decide)⟩

/-- A first row out of memory, a second row out of memory after a row that fits, and a pixel past the last cell after
one that fits. -/
theorem test_witness_DrawSpriteReportsTheFirstViolation :
    0xFFF < (State.reset.setI 0x1000).base + 0 ∧
    ((∀ d < 1, (State.reset.setI 0xFFF).RowFits 0 1 d) ∧ 0xFFF < (State.reset.setI 0xFFF).base + 1) ∧
    let s := spriteAt [0xC0] 63 31
    s.base + 0 ≤ 0xFFF ∧ (∀ d < 1, s.spriteBit 0 d = true → s.spriteCell 0 1 0 d < 2048) ∧
      s.spriteBit 0 1 = true ∧ 2048 ≤ s.spriteCell 0 1 0 1 := by
  refine ⟨by decide, ⟨?_, by decide⟩, by decide⟩
  unfold State.RowFits
  decide

theorem test_witness_DrawingTwiceRestoresTheFramebuffer :
    (0 : RegIdx) ≠ 0xF ∧ (1 : RegIdx) ≠ 0xF ∧ (withCell 194 (spriteAt [0x80] 2 3)).SpriteFits 0 1 1 :=
  ⟨by decide, by decide, spriteFits_of (by decide)⟩

/-- A jump to its own address, and an offset jump past memory. -/
theorem test_witness_JumpsSetPcAbsolutely :
    (State.reset.setPc (addressOperand 0x200)).pc = State.reset.pc ∧
    0xFFE < ((withReg 0 0xFF).setPc (addressOperand 0xFFF + zextByte ((withReg 0 0xFF).reg 0))).pc.toNat := by decide

/-- The stack full, with one entry free, with one entry live, and empty. -/
theorem test_witness_CallAndReturnKeepTheStack :
    (withStack 16).sp.val = 16 ∧ (withStack 15).sp.val < 16 ∧ (withStack 0).sp.val < 16 ∧ (withStack 0).sp.val = 0 ∧
    (withStack 1).sp.val = (0 : Fin 16).val + 1 ∧ (withStack 16).sp.val = (15 : Fin 16).val + 1 := by decide

theorem test_witness_SetSound_SetDelay : (withReg 3 1).reg 3 = 1 ∧ (withReg 3 0).reg 3 = 0 := by decide

/-- Equal and unequal register numbers, and both low nibbles. -/
theorem test_witness_RegisterSkipsAdvanceByFourOrTwo : (1 : RegIdx) = 1 ∧ (1 : RegIdx) ≠ 2 ∧ (1 : BitVec 4) ≠ 0 := by decide

/-- VF is not the destination, and a mask bit is clear: add-reg, the subtractions, the shifts, 256 add-imms, rand-mask. -/
theorem test_witness_AddReg_Subtractions_Shifts_RepeatedAddImm_RandMask : (1 : RegIdx) ≠ 0xF ∧ (0x0F : Byte).getLsbD 7 = false := by decide

/-- The last index each access has room at, and the first it has not: store-bcd and the BCD round trip. -/
theorem test_witness_StoreBcd_BcdDigits :
    (State.reset.setI 0xFFD).I.toNat + 2 ≤ 0xFFF ∧ 0xFFF < (State.reset.setI 0xFFE).I.toNat + 2 := by decide

/-- The same of reg-dump and reg-load, of 16 registers and of one; and a fetch of the last two bytes. -/
theorem test_witness_RegDump_RegLoad_StoredBytes :
    (State.reset.setI 0xFF0).I.toNat + (15 : RegIdx).toNat ≤ 0xFFF ∧ 0xFFF < (State.reset.setI 0xFF1).I.toNat + (15 : RegIdx).toNat ∧
    (State.reset.setI 0xFFF).I.toNat + (0 : RegIdx).toNat ≤ 0xFFF ∧ 0xFFF < (State.reset.setI 0x1000).I.toNat + (0 : RegIdx).toNat ∧
    (0xFFE : Word).toNat ≤ 0xFFE := by decide

theorem test_witness_KeySkipsTestTheNamedKey : ((withReg 5 15).reg 5).toNat = (15 : Fin 16).val ∧
    ((withReg 5 0).reg 5).toNat = (0 : Fin 16).val ∧ 15 < ((withReg 5 16).reg 5).toNat := by decide

/-- No key, key 0 alone, and key 15 above key 0. -/
theorem test_witness_WaitKeyTakesTheHighestPressedKey : (∀ k < 16, State.reset.keyAt k = false) ∧
    ((State.reset.setKey 0 true).keyAt 0 = true ∧ ∀ j < 16, 0 < j → (State.reset.setKey 0 true).keyAt j = false) ∧
    let s := (State.reset.setKey 0 true).setKey 15 true
    s.keyAt 15 = true ∧ ∀ j < 16, 15 < j → s.keyAt j = false := by decide

theorem test_witness_WaitingLastsUntilAKeyIsPressed : (place 0xF50A State.reset).Waiting ∧
    (place 0xF50A State.reset).Fetches (.ldVxK 5) :=
  ⟨⟨rfl, ⟨5, fetches_place rfl (by decide)⟩, by decide⟩, fetches_place rfl (by decide)⟩

theorem test_witness_ParkedStaysParked : (place 0x1200 State.reset).Parked :=
  ⟨rfl, 0x200, fetches_place rfl (by decide), rfl⟩

theorem test_witness_TickCountsBothTimersDown : State.reset.dt = (withReg 3 7).dt ∧ State.reset.st = (withReg 3 7).st := by
  decide

/-- The largest image, the empty one, and the smallest that is too large. -/
theorem test_witness_Load_OversizedImage : (List.replicate 3584 (0xAB : Byte)).length ≤ 3584 ∧ ([] : List Byte).length ≤ 3584 ∧
    3584 < (List.replicate 3585 (0xAB : Byte)).length ∧ State.reset.err = none := by
  simp only [List.length_replicate]
  decide

theorem test_witness_PlacedWordIsFetchedNext : (State.reset.setPc 0xFFE).err = none ∧ (State.reset.setPc 0xFFE).pc.toNat ≤ 0xFFE := by
  decide

end Sys2Proof.Tests
end

section
/-! The display family: clear-screen (spec/41_display.md R120). -/

namespace Sys2Proof.Machine

/-- The state clear-screen leaves: every cell 0, redraw set, pc past the instruction (R120). -/
def State.cleared (s : State) : State := ((s.setFb Framebuffer.clear).setRedraw true).advance

@[simp] theorem State.cleared_fb (s : State) : s.cleared.fb = Framebuffer.clear := rfl
@[simp] theorem State.cleared_redraw (s : State) : s.cleared.redraw = true := rfl
@[simp] theorem State.cleared_pc (s : State) : s.cleared.pc = s.pc + 2 := rfl

/-- Clear-screen completes from every state (R120): it raises no error and reads no operand. -/
theorem exec_cls (s : State) : exec .cls s = .next s.cleared := rfl

/-- Clear-screen's frame. Outside pc, redraw and the 2048 cells every part is a field no update names; a cell number
past the framebuffer reads as false before and after. -/
theorem State.unchangedBut_cleared (s : State) : UnchangedBut s s.cleared ([.pc, .redraw] ++ cellParts) := by
  intro p hp
  obtain ⟨hwritten, hcells⟩ := not_or.mp (mt List.mem_append.mpr hp)
  cases p with
  | pc => simp at hwritten
  | redraw => simp at hwritten
  | cell c => simp only [Part.Same, cell_not_mem_cellParts hcells]
  | _ => rfl

/-- Settles O20: the final state is `State.cleared`, whose cells are all 0 and whose frame is `State.unchangedBut_cleared`. -/
theorem clearScreenZeroesEveryCell : Obligations.ClearScreenZeroesEveryCell := by
  unfold Obligations.ClearScreenZeroesEveryCell
  refine ⟨by decide, fun s => ⟨s.cleared, exec_cls s, ?cells, s.cleared_redraw, s.cleared_pc, s.unchangedBut_cleared⟩⟩
  case cells =>
    intro c _
    rw [State.cleared_fb, Framebuffer.cell_clear]

end Sys2Proof.Machine
end

section
/-! The control-flow family: the immediate skips (spec/42_control.md R143, R144). -/

namespace Sys2Proof.Machine

/-! ### Decoding -/

theorem decode_seImm (x : RegIdx) (nn : Byte) : decode (0x3#4 ++ x ++ nn) = .ok (.seImm x nn) := by
  simp [decode]

theorem decode_sneImm (x : RegIdx) (nn : Byte) : decode (0x4#4 ++ x ++ nn) = .ok (.sneImm x nn) := by
  simp [decode]

/-! ### Executing -/

/-- Skip-eq-imm completes from every state (R143): it reads one register, and no word of memory. -/
theorem exec_seImm (x : RegIdx) (nn : Byte) (s : State) :
    exec (.seImm x nn) s = .next (s.skipIf (s.reg x == nn)) := rfl

/-- Skip-neq-imm completes from every state (R144): it reads one register, and no word of memory. -/
theorem exec_sneImm (x : RegIdx) (nn : Byte) (s : State) :
    exec (.sneImm x nn) s = .next (s.skipIf (s.reg x != nn)) := rfl

/-! ### A conditional skip -/

/-- A skip on equality advances pc by 4 when the bytes are equal and by 2 otherwise (R143). -/
theorem State.skipIf_beq_pc (s : State) (a b : Byte) :
    (s.skipIf (a == b)).pc = if a = b then s.pc + 4 else s.pc + 2 := by
  by_cases h : a = b <;> simp [h]

/-- A skip on inequality advances pc by 2 when the bytes are equal and by 4 otherwise (R144). -/
theorem State.skipIf_bne_pc (s : State) (a b : Byte) :
    (s.skipIf (a != b)).pc = if a = b then s.pc + 2 else s.pc + 4 := by
  by_cases h : a = b <;> simp [h]

/-- A conditional skip's frame: pc is the one field it updates, whatever the condition. -/
theorem State.unchangedBut_skipIf (s : State) (c : Bool) : UnchangedBut s (s.skipIf c) [.pc] := by
  intro p hp
  cases p with
  | pc => simp at hp
  | _ => rfl

/-- Settles O26: both final states are a `State.skipIf`, on equality for skip-eq-imm and on inequality for
skip-neq-imm. -/
theorem immediateSkipsAdvanceByFourOrTwo : Obligations.ImmediateSkipsAdvanceByFourOrTwo := by
  unfold Obligations.ImmediateSkipsAdvanceByFourOrTwo
  intro x nn s
  exact ⟨decode_seImm x nn, decode_sneImm x nn,
    ⟨_, exec_seImm x nn s, s.skipIf_beq_pc (s.reg x) nn, s.unchangedBut_skipIf _⟩,
    ⟨_, exec_sneImm x nn s, s.skipIf_bne_pc (s.reg x) nn, s.unchangedBut_skipIf _⟩⟩

end Sys2Proof.Machine
end

section
/-! The ALU family: the immediate load and the immediate addition (spec/43_alu.md R171, R172). -/

namespace Sys2Proof.Machine

/-! ### Decoding -/

theorem decode_ldImm (x : RegIdx) (nn : Byte) : decode (0x6#4 ++ x ++ nn) = .ok (.ldImm x nn) := by
  simp [decode]

theorem decode_addImm (x : RegIdx) (nn : Byte) : decode (0x7#4 ++ x ++ nn) = .ok (.addImm x nn) := by
  simp [decode]

/-! ### Executing -/

/-- Set-imm completes from every state (R171): it reads no register. -/
theorem exec_ldImm (x : RegIdx) (nn : Byte) (s : State) :
    exec (.ldImm x nn) s = .next (s.setReg x nn).advance := rfl

/-- Add-imm completes from every state (R172): it reads its own destination, and writes no flag. -/
theorem exec_addImm (x : RegIdx) (nn : Byte) (s : State) :
    exec (.addImm x nn) s = .next (s.setReg x (s.reg x + nn)).advance := rfl

/-! ### A register write and the advance -/

/-- The written register holds the byte, VF included (R21, R22). -/
theorem State.reg_setReg_advance (s : State) (x : RegIdx) (b : Byte) : (s.setReg x b).advance.reg x = b := by
  rw [State.reg_advance, State.reg_setReg_same]

/-- The frame of one register write and the advance. Another register, VF among them, keeps its byte because its number
differs; every other part is a field neither update names. -/
theorem State.unchangedBut_setReg_advance (s : State) (x : RegIdx) (b : Byte) :
    UnchangedBut s (s.setReg x b).advance [.pc, .reg x] := by
  intro p hp
  cases p with
  | pc => simp at hp
  | reg y =>
    have hy : y ≠ x := by simpa using hp
    rw [Part.Same, State.reg_advance, State.reg_setReg_ne s hy]
  | _ => rfl

/-- The byte add-imm writes is the unbounded sum mod 256 (R170, R172). -/
theorem State.toNat_reg_addImm (s : State) (x : RegIdx) (nn : Byte) :
    ((s.setReg x (s.reg x + nn)).advance.reg x).toNat = ((s.reg x).toNat + nn.toNat) % 256 := by
  rw [State.reg_setReg_advance, BitVec.toNat_add]

/-- Settles O28: both final states are one register write and the advance, whose frame is
`State.unchangedBut_setReg_advance`. -/
theorem setImmAndAddImmWriteOneRegister : Obligations.SetImmAndAddImmWriteOneRegister := by
  unfold Obligations.SetImmAndAddImmWriteOneRegister
  intro x nn s
  exact ⟨decode_ldImm x nn, decode_addImm x nn,
    ⟨_, exec_ldImm x nn s, s.reg_setReg_advance x nn, State.advance_pc _, s.unchangedBut_setReg_advance x nn⟩,
    ⟨_, exec_addImm x nn s, s.toNat_reg_addImm x nn, State.advance_pc _, s.unchangedBut_setReg_advance x _⟩⟩

end Sys2Proof.Machine
end

section
/-! The index family: the address load (spec/44_index_memory.md R200). -/

namespace Sys2Proof.Machine

/-! ### Decoding -/

theorem decode_ldI (nnn : BitVec 12) : decode (0xA#4 ++ nnn) = .ok (.ldI nnn) := by
  simp [decode]

/-! ### Executing -/

/-- Set-index completes from every state (R200): it accesses no memory, so no address is out of range. -/
theorem exec_ldI (nnn : BitVec 12) (s : State) :
    exec (.ldI nnn) s = .next (s.setI (addressOperand nnn)).advance := rfl

/-! ### An index write and the advance -/

/-- Widening an address operand to a word keeps its value (R73). -/
@[simp] theorem addressOperand_toNat (nnn : BitVec 12) : (addressOperand nnn).toNat = nnn.toNat :=
  BitVec.toNat_setWidth_of_le (by decide)

/-- The frame of one index write and the advance: each other part is a field neither update names. -/
theorem State.unchangedBut_setI_advance (s : State) (w : Word) :
    UnchangedBut s (s.setI w).advance [.pc, .index] := by
  intro p hp
  cases p with
  | pc => simp at hp
  | index => simp at hp
  | _ => rfl

/-- Settles O35: the final state is one index write and the advance, whose frame is
`State.unchangedBut_setI_advance`. -/
theorem setIndexLoadsTheAddress : Obligations.SetIndexLoadsTheAddress := by
  unfold Obligations.SetIndexLoadsTheAddress
  intro nnn s
  refine ⟨decode_ldI nnn, _, exec_ldI nnn s, ?index, State.advance_pc _, s.unchangedBut_setI_advance _⟩
  case index => rw [State.advance_I, State.setI_I, addressOperand_toNat]

end Sys2Proof.Machine
end

section
/-! The timer family: get-delay and set-delay, and a stopped timer under a tick (spec/46_timers.md R250, R252, R254). -/

namespace Sys2Proof.Machine

/-! ### Decoding -/

theorem decode_ldVxDt (x : RegIdx) : decode (0xF#4 ++ x ++ 0x07#8) = .ok (.ldVxDt x) := by
  simp [decode, decodeMisc]

theorem decode_ldDtVx (x : RegIdx) : decode (0xF#4 ++ x ++ 0x15#8) = .ok (.ldDtVx x) := by
  simp [decode, decodeMisc]

/-! ### Executing -/

/-- Get-delay completes from every state (R250): it reads the delay timer and writes one register. -/
theorem exec_ldVxDt (x : RegIdx) (s : State) : exec (.ldVxDt x) s = .next (s.setReg x s.dt).advance := rfl

/-- Set-delay completes from every state (R252): it reads one register and writes the delay timer. -/
theorem exec_ldDtVx (x : RegIdx) (s : State) : exec (.ldDtVx x) s = .next (s.setDt (s.reg x)).advance := rfl

/-! ### A delay-timer write and the advance -/

/-- The delay timer holds the byte written. -/
theorem State.setDt_advance_dt (s : State) (b : Byte) : (s.setDt b).advance.dt = b := by
  rw [State.advance_dt, State.setDt_dt]

/-- The frame of one delay-timer write and the advance: each other part is a field neither update names. -/
theorem State.unchangedBut_setDt_advance (s : State) (b : Byte) :
    UnchangedBut s (s.setDt b).advance [.pc, .dt] := by
  intro p hp
  cases p with
  | pc => simp at hp
  | dt => simp at hp
  | _ => rfl

/-! ### The delay timer under a tick -/

/-- A tick counts the delay timer down; the sound timer plays no part in it (R254). -/
@[simp] theorem State.tick_dt (s : State) : s.tick.dt = countDown s.dt := rfl

/-- The countdown is clamped: a timer at zero stays there (R251, R254). -/
@[simp] theorem countDown_zero : countDown 0 = 0 := rfl

/-- A stopped delay timer is still stopped after a tick. -/
theorem State.tick_dt_eq_zero {s : State} (h : s.dt = 0) : s.tick.dt = 0 := by
  rw [State.tick_dt, h, countDown_zero]

/-- Settles O47: get-delay is one register write and the advance, set-delay one delay-timer write and the advance; a
zero written to the delay timer meets the clamp of `State.tick_dt_eq_zero`. -/
theorem delayTimerInstructionsMoveOneByte : Obligations.DelayTimerInstructionsMoveOneByte := by
  unfold Obligations.DelayTimerInstructionsMoveOneByte
  intro x s
  have dt_loaded : (s.setDt (s.reg x)).advance.dt = s.reg x := s.setDt_advance_dt (s.reg x)
  exact ⟨decode_ldVxDt x, decode_ldDtVx x,
    ⟨_, exec_ldVxDt x s, s.reg_setReg_advance x s.dt, State.advance_pc _, s.unchangedBut_setReg_advance x s.dt⟩,
    ⟨_, exec_ldDtVx x s, dt_loaded, State.advance_pc _, s.unchangedBut_setDt_advance _,
      fun reg_zero => State.tick_dt_eq_zero (dt_loaded.trans reg_zero)⟩⟩

end Sys2Proof.Machine
end

section
/-! The key and redraw transactions (spec/70_reset_and_hazards.md R356, R357). -/

namespace Sys2Proof.Machine

/-! ### Performing -/

theorem perform_setKey (k : Fin 16) (b : Bool) (s : State) : perform (.setKey k b) s = .next (s.setKey k b) := rfl

theorem perform_clearRedraw (s : State) : perform .clearRedraw s = .next s.clearRedraw := rfl

/-! ### A key write -/

/-- The key array after set-key: one entry written (R356). -/
@[simp] theorem State.setKey_key (s : State) (k : Fin 16) (b : Bool) : (s.setKey k b).key = s.key.set k b :=
  s.setKeyState_key k b

/-- The key written holds the Boolean given. -/
theorem State.setKey_getElem_same (s : State) (k : Fin 16) (b : Bool) : (s.setKey k b).key[k] = b := by
  simp only [State.setKey_key, Fin.getElem_fin, Vector.getElem_set_self]

/-- Set-key's frame. The other keys read as before because the array write meets one index; each other part is a field
the update does not name. -/
theorem State.unchangedBut_setKey (s : State) (k : Fin 16) (b : Bool) :
    UnchangedBut s (s.setKey k b) [.key k.val] := by
  intro p hp
  cases p with
  | key j =>
    have other : j ≠ k.val := by simpa using hp
    exact (s.keyAt_setKeyState k b j).trans (if_neg other)
  | _ => rfl

/-! ### A redraw write -/

/-- The redraw flag is down after clear-redraw (R357). -/
@[simp] theorem State.clearRedraw_redraw (s : State) : s.clearRedraw.redraw = false := s.setRedraw_redraw false

/-- Clear-redraw's frame: each part but redraw is a field the update does not name. -/
theorem State.unchangedBut_clearRedraw (s : State) : UnchangedBut s s.clearRedraw [.redraw] := by
  intro p hp
  cases p with
  | redraw => simp at hp
  | _ => rfl

/-- Settles O52: each transaction is one field write, whose frames are `State.unchangedBut_setKey` and
`State.unchangedBut_clearRedraw`. -/
theorem setKeyAndClearRedrawChangeOneElement : Obligations.SetKeyAndClearRedrawChangeOneElement := by
  unfold Obligations.SetKeyAndClearRedrawChangeOneElement
  intro k b s
  exact ⟨⟨perform_setKey k b s, s.setKey_getElem_same k b, s.unchangedBut_setKey k b⟩,
    ⟨perform_clearRedraw s, s.clearRedraw_redraw, s.unchangedBut_clearRedraw⟩⟩

end Sys2Proof.Machine
end

section
/-! The decoder against the encoder and the opcode table (spec/30_encoding.md R74 to R79, R84). -/

namespace Sys2Proof.Machine

/-! ### Decoding an encoded instruction -/

/-- Decoding the encoding of an instruction gives it back, with every operand (R84): each format's fields are read back
by the laws of the fields. -/
theorem decode_encode (i : Instr) : decode (encode i) = .ok i := by
  cases i with
  | cls => decide
  | ret => decide
  | ldReg | or | and | xor | addReg | sub | shr | subn | shl => simp [encode, decode, decodeAlu]
  | skp | sknp => simp [encode, decode, decodeKey]
  | ldVxDt | ldVxK | ldDtVx | ldStVx | addIVx | ldFVx | ldBVx | ldMemVx | ldVxMem => simp [encode, decode, decodeMisc]
  | _ => simp [encode, decode]

/-- A table word of 16 bits is the opcode it numbers. -/
@[simp] theorem tableOpcode_toNat (op : Word) : tableOpcode 16 op.toNat = op := by
  rw [tableOpcode, Nat.mod_eq_of_lt op.isLt, BitVec.ofNat_toNat, BitVec.setWidth_eq]

/-- The decoder reads a table word of 16 bits as it reads the opcode. -/
theorem decodeTableWord_of_decode {op : Word} {i : Instr} (h : decode op = .ok i) :
    decodeTableWord 16 op.toNat = some i := by
  simp [decodeTableWord, decodeBytes, h]

/-- Settles O5: `decode_encode` for the opcode, and `decodeTableWord_of_decode` for the table word. -/
theorem decodeOfEncodeGivesTheInstructionBack : Obligations.DecodeOfEncodeGivesTheInstructionBack := by
  unfold Obligations.DecodeOfEncodeGivesTheInstructionBack
  exact fun i => ⟨decode_encode i, decodeTableWord_of_decode (decode_encode i)⟩

/-- Settles O8: each word is closed, and its decoding computes. -/
theorem sampleWordsDecodeAsTheEncodingsSay : Obligations.SampleWordsDecodeAsTheEncodingsSay := by
  unfold Obligations.SampleWordsDecodeAsTheEncodingsSay
  decide

/-! ### Encoding a decoded word -/

section Encoding
variable {op : Word} {i : Instr}

/-- The 0 family has two words, each its own encoding (R76). -/
theorem encode_of_decodeZero (h : decodeZero op = .ok i) : encode i = op := by
  unfold decodeZero at h
  split at h
  · next e => cases h; exact e.symm
  · split at h
    · next e => cases h; exact e.symm
    · cases h

/-- In the 8 family the low nibble names the operation, and X and Y are the operands (R77). -/
theorem encode_of_decodeAlu (hF : fieldF op = 0x8) (h : decodeAlu op = .ok i) : encode i = op := by
  have word := append_xyn op
  rw [hF] at word
  unfold decodeAlu at h
  split at h
  case h_10 => cases h
  all_goals next hN => cases h; rw [hN] at word; exact word

/-- In the E family the low byte names the operation, and X is the operand (R78). -/
theorem encode_of_decodeKey (hF : fieldF op = 0xE) (h : decodeKey op = .ok i) : encode i = op := by
  have word := append_xnn op
  rw [hF] at word
  unfold decodeKey at h
  split at h
  case h_3 => cases h
  all_goals next hNN => cases h; rw [hNN] at word; exact word

/-- In the F family the low byte names the operation, and X is the operand (R78). -/
theorem encode_of_decodeMisc (hF : fieldF op = 0xF) (h : decodeMisc op = .ok i) : encode i = op := by
  have word := append_xnn op
  rw [hF] at word
  unfold decodeMisc at h
  split at h
  case h_10 => cases h
  all_goals next hNN => cases h; rw [hNN] at word; exact word

/-- Settles O6: the family nibble picks the format, and the word is its fields side by side. -/
theorem encodeOfDecodeGivesTheWordBack : Obligations.EncodeOfDecodeGivesTheWordBack := by
  unfold Obligations.EncodeOfDecodeGivesTheWordBack
  intro op i h
  have nnn := append_nnn op
  have xnn := append_xnn op
  have xyn := append_xyn op
  unfold decode at h
  split at h
  case h_1 hF => exact encode_of_decodeZero h
  case h_2 hF | h_3 hF | h_11 hF | h_12 hF => cases h; rw [hF] at nnn; exact nnn
  case h_4 hF | h_5 hF | h_7 hF | h_8 hF | h_13 hF => cases h; rw [hF] at xnn; exact xnn
  case h_6 hF | h_10 hF =>
    split at h
    · next hN => cases h; rw [hF, hN] at xyn; exact xyn
    · cases h
  case h_9 hF => exact encode_of_decodeAlu hF h
  case h_14 hF => cases h; rw [hF] at xyn; exact xyn
  case h_15 hF => exact encode_of_decodeKey hF h
  case h_16 =>
    refine encode_of_decodeMisc (nibble_eq_F _ fun k => ?_) h
    fin_cases k <;> assumption

end Encoding
/-! ### The unknown words -/

/-- In the 0 family every word but two is unknown (R79 (a)). -/
theorem decodeZero_eq_error_iff (op : Word) :
    decodeZero op = .error (.unknownOpcode op) ↔ op ≠ 0x00E0 ∧ op ≠ 0x00EE := by
  unfold decodeZero
  split
  · next e => simp [e]
  · next ne =>
    split
    · next e => simp [e]
    · next ne' => exact iff_of_true rfl ⟨ne, ne'⟩

/-- In the 8 family the low nibble alone makes a word unknown (R79 (c)). -/
theorem decodeAlu_eq_error_iff (op : Word) : decodeAlu op = .error (.unknownOpcode op) ↔
    fieldN op ∉ [0x0, 0x1, 0x2, 0x3, 0x4, 0x5, 0x6, 0x7, 0xE] := by
  unfold decodeAlu
  split
  case h_10 => simp_all
  all_goals next hN => simp [hN]

/-- In the E family the low byte alone makes a word unknown (R79 (d)). -/
theorem decodeKey_eq_error_iff (op : Word) : decodeKey op = .error (.unknownOpcode op) ↔
    fieldNN op ∉ [0x9E, 0xA1] := by
  unfold decodeKey
  split
  case h_3 => simp_all
  all_goals next hNN => simp [hNN]

/-- In the F family the low byte alone makes a word unknown (R79 (e)). -/
theorem decodeMisc_eq_error_iff (op : Word) : decodeMisc op = .error (.unknownOpcode op) ↔
    fieldNN op ∉ [0x07, 0x0A, 0x15, 0x18, 0x1E, 0x29, 0x33, 0x55, 0x65] := by
  unfold decodeMisc
  split
  case h_10 => simp_all
  all_goals next hNN => simp [hNN]

/-- The nine low nibbles of the 8 family's operations leave seven others. -/
theorem not_aluNibble_iff (n : BitVec 4) : n ∉ [0x0, 0x1, 0x2, 0x3, 0x4, 0x5, 0x6, 0x7, 0xE] ↔
    n ∈ [0x8, 0x9, 0xA, 0xB, 0xC, 0xD, 0xF] := by
  revert n; decide

/-! ### The rows of the opcode table -/

section Rows
variable {op w : Word} {a n : BitVec 4} {kk : Byte}

/-- A row that fixes the family nibble (R75, R76). -/
theorem familyRow_iff (e : w = a ++ 0#12) : (op &&& 0xF000 == w) = true ↔ fieldF op = a := by
  rw [beq_iff_eq, e, and_familyMask]

/-- A row that fixes the family nibble and the low nibble (R75, R77). -/
theorem registerRow_iff (e : w = a ++ 0#4 ++ 0#4 ++ n) :
    (op &&& 0xF00F == w) = true ↔ fieldF op = a ∧ fieldN op = n := by
  rw [beq_iff_eq, e, and_registerMask]

/-- A row that fixes the family nibble and the low byte (R78). -/
theorem subCodeRow_iff (e : w = a ++ 0#4 ++ kk) :
    (op &&& 0xF0FF == w) = true ↔ fieldF op = a ∧ fieldNN op = kk := by
  rw [beq_iff_eq, e, and_subCodeMask]

/-- A row that fixes all sixteen bits, of family 0 (R76). -/
theorem wordRow_iff (e : fieldF w = 0) : (op &&& 0xFFFF == w) = true ↔ fieldF op = 0 ∧ op = w := by
  have all : op &&& 0xFFFF = op := BitVec.and_allOnes
  rw [beq_iff_eq, all]
  exact ⟨fun h => ⟨h ▸ e, h⟩, And.right⟩

end Rows

/-- What the rows of the first group match. -/
theorem familyPatterns_any (op : Word) : (familyPatterns.any fun p => op &&& p.mask == p.value) = true ↔
    (fieldF op = 0 ∧ (op = 0x00E0 ∨ op = 0x00EE)) ∨
      fieldF op ∈ [0x1, 0x2, 0x3, 0x4, 0x6, 0x7, 0xA, 0xB, 0xC, 0xD] := by
  simp only [familyPatterns, List.any_cons, List.any_nil, Bool.or_eq_true, Bool.false_eq_true, or_false,
    wordRow_iff (w := 0x00E0) rfl, wordRow_iff (w := 0x00EE) rfl, familyRow_iff (w := 0x1000) (a := 0x1) rfl,
    familyRow_iff (w := 0x2000) (a := 0x2) rfl, familyRow_iff (w := 0x3000) (a := 0x3) rfl,
    familyRow_iff (w := 0x4000) (a := 0x4) rfl, familyRow_iff (w := 0x6000) (a := 0x6) rfl,
    familyRow_iff (w := 0x7000) (a := 0x7) rfl, familyRow_iff (w := 0xA000) (a := 0xA) rfl,
    familyRow_iff (w := 0xB000) (a := 0xB) rfl, familyRow_iff (w := 0xC000) (a := 0xC) rfl,
    familyRow_iff (w := 0xD000) (a := 0xD) rfl, List.mem_cons, List.not_mem_nil, and_or_left, or_assoc]

/-- What the rows of the register group match. -/
theorem registerPatterns_any (op : Word) : (registerPatterns.any fun p => op &&& p.mask == p.value) = true ↔
    ((fieldF op = 0x5 ∨ fieldF op = 0x9) ∧ fieldN op = 0) ∨
      (fieldF op = 0x8 ∧ fieldN op ∈ [0x0, 0x1, 0x2, 0x3, 0x4, 0x5, 0x6, 0x7, 0xE]) := by
  simp only [registerPatterns, List.any_cons, List.any_nil, Bool.or_eq_true, Bool.false_eq_true, or_false,
    registerRow_iff (w := 0x5000) (a := 0x5) (n := 0x0) rfl, registerRow_iff (w := 0x9000) (a := 0x9) (n := 0x0) rfl,
    registerRow_iff (w := 0x8000) (a := 0x8) (n := 0x0) rfl, registerRow_iff (w := 0x8001) (a := 0x8) (n := 0x1) rfl,
    registerRow_iff (w := 0x8002) (a := 0x8) (n := 0x2) rfl, registerRow_iff (w := 0x8003) (a := 0x8) (n := 0x3) rfl,
    registerRow_iff (w := 0x8004) (a := 0x8) (n := 0x4) rfl, registerRow_iff (w := 0x8005) (a := 0x8) (n := 0x5) rfl,
    registerRow_iff (w := 0x8006) (a := 0x8) (n := 0x6) rfl, registerRow_iff (w := 0x8007) (a := 0x8) (n := 0x7) rfl,
    registerRow_iff (w := 0x800E) (a := 0x8) (n := 0xE) rfl, List.mem_cons, List.not_mem_nil, and_or_left,
    or_and_right, or_assoc]

/-- What the rows of the sub-code group match. -/
theorem subCodePatterns_any (op : Word) : (subCodePatterns.any fun p => op &&& p.mask == p.value) = true ↔
    (fieldF op = 0xE ∧ fieldNN op ∈ [0x9E, 0xA1]) ∨
      (fieldF op = 0xF ∧ fieldNN op ∈ [0x07, 0x0A, 0x15, 0x18, 0x1E, 0x29, 0x33, 0x55, 0x65]) := by
  simp only [subCodePatterns, List.any_cons, List.any_nil, Bool.or_eq_true, Bool.false_eq_true, or_false,
    subCodeRow_iff (w := 0xE09E) (a := 0xE) (kk := 0x9E) rfl, subCodeRow_iff (w := 0xE0A1) (a := 0xE) (kk := 0xA1) rfl,
    subCodeRow_iff (w := 0xF007) (a := 0xF) (kk := 0x07) rfl, subCodeRow_iff (w := 0xF00A) (a := 0xF) (kk := 0x0A) rfl,
    subCodeRow_iff (w := 0xF015) (a := 0xF) (kk := 0x15) rfl, subCodeRow_iff (w := 0xF018) (a := 0xF) (kk := 0x18) rfl,
    subCodeRow_iff (w := 0xF01E) (a := 0xF) (kk := 0x1E) rfl, subCodeRow_iff (w := 0xF029) (a := 0xF) (kk := 0x29) rfl,
    subCodeRow_iff (w := 0xF033) (a := 0xF) (kk := 0x33) rfl, subCodeRow_iff (w := 0xF055) (a := 0xF) (kk := 0x55) rfl,
    subCodeRow_iff (w := 0xF065) (a := 0xF) (kk := 0x65) rfl, List.mem_cons, List.not_mem_nil, and_or_left, or_assoc]

/-- What the rows of the opcode table match, by family. -/
theorem wellFormedWord_iff (op : Word) : wellFormedWord op = true ↔
    ((fieldF op = 0 ∧ (op = 0x00E0 ∨ op = 0x00EE)) ∨
      fieldF op ∈ [0x1, 0x2, 0x3, 0x4, 0x6, 0x7, 0xA, 0xB, 0xC, 0xD]) ∨
    (((fieldF op = 0x5 ∨ fieldF op = 0x9) ∧ fieldN op = 0) ∨
      (fieldF op = 0x8 ∧ fieldN op ∈ [0x0, 0x1, 0x2, 0x3, 0x4, 0x5, 0x6, 0x7, 0xE])) ∨
    ((fieldF op = 0xE ∧ fieldNN op ∈ [0x9E, 0xA1]) ∨
      (fieldF op = 0xF ∧ fieldNN op ∈ [0x07, 0x0A, 0x15, 0x18, 0x1E, 0x29, 0x33, 0x55, 0x65])) := by
  rw [wellFormedWord, opcodePatterns, List.any_append, List.any_append, Bool.or_eq_true, Bool.or_eq_true,
    familyPatterns_any, registerPatterns_any, subCodePatterns_any, or_assoc]

/-- Settles O7: within one family both the listed sets and the rows of the table speak of the same part of the word as
the decoder does. -/
theorem unknownWordsAreExactlyTheListedSets : Obligations.UnknownWordsAreExactlyTheListedSets := by
  unfold Obligations.UnknownWordsAreExactlyTheListedSets
  intro op
  rw [← Bool.not_eq_true (wellFormedWord op), wellFormedWord_iff]
  unfold decode
  split
  case h_1 hF => simp [hF, decodeZero_eq_error_iff]
  case h_6 hF | h_10 hF => by_cases hN : fieldN op = 0 <;> simp [hF, hN]
  case h_9 hF =>
    rw [decodeAlu_eq_error_iff]
    refine ⟨?_, by simp [hF]⟩
    rw [not_aluNibble_iff]
    simp [hF]
  case h_15 hF => rw [decodeKey_eq_error_iff]; simp [hF]
  case h_16 =>
    have hF : fieldF op = 0xF := nibble_eq_F _ fun k => by fin_cases k <;> assumption
    rw [decodeMisc_eq_error_iff]; simp [hF]
  all_goals next hF => simp [hF]

end Sys2Proof.Machine
end

section
/-! What each instruction answers, as one equation per outcome, and the frame of each shape of update
(spec/10_state.md R20, spec/60_exceptions.md R304). -/

namespace Sys2Proof.Machine

/-! ### Frames -/

theorem UnchangedBut.mono {s t : State} {ps qs : List Part} (h : UnchangedBut s t ps) (sub : ps ⊆ qs) :
    UnchangedBut s t qs := fun p hp => h p fun hp' => hp (sub hp')

theorem UnchangedBut.refl (s : State) (ps : List Part) : UnchangedBut s s ps := fun p _ => by cases p <;> rfl

theorem UnchangedBut.trans {s t u : State} {ps : List Part} (h : UnchangedBut s t ps) (h' : UnchangedBut t u ps) :
    UnchangedBut s u ps := fun p hp => by
  have st := h p hp
  have tu := h' p hp
  cases p <;> exact tu.trans st

theorem State.unchangedBut_setPc (s : State) (w : Word) : UnchangedBut s (s.setPc w) [.pc] := by
  intro p hp
  cases p with
  | pc => simp at hp
  | _ => rfl

theorem State.unchangedBut_setStatus (s : State) (r : Status) : UnchangedBut s (s.setStatus r) [.status] := by
  intro p hp
  cases p with
  | status => simp at hp
  | _ => rfl

/-- A precise error changes the latch and nothing else (R304). -/
theorem State.unchangedBut_raise (s : State) (r : ErrorRecord) : UnchangedBut s (s.raise r) [.err] := by
  intro p hp
  cases p with
  | err => simp at hp
  | _ => rfl

/-! ### The jumps -/

theorem exec_jp (nnn : BitVec 12) (s : State) : exec (.jp nnn) s = .next (s.setPc (addressOperand nnn)) := rfl

theorem exec_jpV0 (nnn : BitVec 12) (s : State) :
    exec (.jpV0 nnn) s = .next (s.setPc (addressOperand nnn + zextByte (s.reg offsetReg))) := rfl

/-- Widening a byte to a word keeps its value (R6). -/
@[simp] theorem zextByte_toNat (b : Byte) : (zextByte b).toNat = b.toNat :=
  BitVec.toNat_setWidth_of_le (by decide)

/-- An address and a byte add without wrapping (R149). -/
theorem addressOperand_add_zextByte_toNat (nnn : BitVec 12) (b : Byte) :
    (addressOperand nnn + zextByte b).toNat = nnn.toNat + b.toNat := by
  have := nnn.isLt
  have := b.isLt
  rw [BitVec.toNat_add, addressOperand_toNat, zextByte_toNat, Nat.mod_eq_of_lt (by omega)]

/-- A pc write of the value it holds is no change. -/
theorem State.setPc_self {s : State} {w : Word} (h : w = s.pc) : s.setPc w = s := by
  subst h; rfl

/-- Settles O24: both final states are a pc write, whose target above 0xFFE the next fetch refuses. -/
theorem jumpsSetPcAbsolutely : Obligations.JumpsSetPcAbsolutely := by
  unfold Obligations.JumpsSetPcAbsolutely
  intro nnn s
  refine ⟨decode_encode (.jp nnn), decode_encode (.jpV0 nnn),
    ⟨_, exec_jp nnn s, addressOperand_toNat nnn, s.unchangedBut_setPc _, ?top, State.setPc_self⟩,
    ⟨_, exec_jpV0 nnn s, addressOperand_add_zextByte_toNat nnn _, s.unchangedBut_setPc _, State.fetch_error⟩⟩
  case top =>
    rintro rfl
    exact State.fetch_error (show 0xFFE < (addressOperand 0xFFF).toNat by decide)

/-! ### Call and return -/

/-- The state a call leaves (R142). -/
def State.called (s : State) (nnn : BitVec 12) (room : s.sp.val < 16) : State :=
  (s.push s.pc room).setPc (addressOperand nnn)

/-- The state a return leaves (R140). -/
def State.returned (s : State) : State := s.pop.setPc (s.top + 2)

theorem exec_call_room (nnn : BitVec 12) {s : State} (room : s.sp.val < 16) :
    exec (.call nnn) s = .next (s.called nnn room) := dif_pos room

theorem exec_call_full (nnn : BitVec 12) {s : State} (full : ¬ s.sp.val < 16) :
    exec (.call nnn) s = .next (s.raise (.stackOverflow s.pc)) := dif_neg full

theorem exec_ret_live {s : State} (live : s.sp.val ≠ 0) : exec .ret s = .next s.returned :=
  if_neg (mt (congrArg Fin.val) live)

theorem exec_ret_empty {s : State} (empty : s.sp.val = 0) : exec .ret s = .next (s.raise (.stackUnderflow s.pc)) :=
  if_pos (Fin.ext empty)

/-- A call's frame: of the stack it writes the entry at the old depth only. -/
theorem State.unchangedBut_called (s : State) (nnn : BitVec 12) (room : s.sp.val < 16) :
    UnchangedBut s (s.called nnn room) [.pc, .sp, .stack s.sp.val] := by
  intro p hp
  cases p with
  | pc => simp at hp
  | sp => simp at hp
  | stack k =>
    have other : s.sp.val ≠ k := fun e => hp (by simp [e])
    exact Vector.getElem?_set_ne room other
  | _ => rfl

/-- A return's frame: the popped entry stays in place (R27). -/
theorem State.unchangedBut_returned (s : State) : UnchangedBut s s.returned [.pc, .sp] := by
  intro p hp
  cases p with
  | pc => simp at hp
  | sp => simp at hp
  | _ => rfl

/-- Settles O25: with room a call pushes its own address and a return pops it (`State.top_push`); at either end of the
stack the instruction raises. -/
theorem callAndReturnKeepTheStack : Obligations.CallAndReturnKeepTheStack := by
  unfold Obligations.CallAndReturnKeepTheStack
  intro nnn s
  refine ⟨decode_encode (.call nnn), decode_encode .ret, ?full, ?room, exec_ret_empty, ?live⟩
  case full => exact fun full => exec_call_full nnn (by omega)
  case room =>
    intro room
    obtain ⟨top, depth⟩ := s.top_push s.pc room
    refine ⟨s.called nnn room, exec_call_room nnn room, Vector.getElem_set_self _, rfl, addressOperand_toNat nnn,
      s.unchangedBut_called nnn room, _, exec_ret_live (Nat.succ_ne_zero _), ?_, depth⟩
    exact congrArg (· + 2) top
  case live =>
    intro d hd
    have below : s.sp.val - 1 = d.val := by omega
    refine ⟨s.returned, exec_ret_live (by omega), below, ?_, s.unchangedBut_returned⟩
    simp [State.returned, State.top, below]

/-! ### The register skips -/

theorem exec_seReg (x y : RegIdx) (s : State) :
    exec (.seReg x y) s = .next (s.skipIf (s.reg x == s.reg y)) := rfl

theorem exec_sneReg (x y : RegIdx) (s : State) :
    exec (.sneReg x y) s = .next (s.skipIf (s.reg x != s.reg y)) := rfl

/-- Settles O27: in families 5 and 9 the low nibble alone decides whether the word is known; both final states are a
`State.skipIf`. -/
theorem registerSkipsAdvanceByFourOrTwo : Obligations.RegisterSkipsAdvanceByFourOrTwo := by
  unfold Obligations.RegisterSkipsAdvanceByFourOrTwo
  intro x y n s
  refine ⟨by simp [decode], by simp [decode],
    ⟨_, exec_seReg x y s, s.skipIf_beq_pc _ _, s.unchangedBut_skipIf _, ?_⟩,
    ⟨_, exec_sneReg x y s, s.skipIf_bne_pc _ _, s.unchangedBut_skipIf _, ?_⟩⟩
  · rintro rfl; rw [State.skipIf_beq_pc, if_pos rfl]
  · rintro rfl; rw [State.skipIf_bne_pc, if_pos rfl]

end Sys2Proof.Machine
end

section
/-! The ALU family (spec/43_alu.md R170 to R185). -/

namespace Sys2Proof.Machine

/-! ### Executing -/

theorem exec_ldReg (x y : RegIdx) (s : State) : exec (.ldReg x y) s = .next (s.setReg x (s.reg y)).advance := rfl

theorem exec_or (x y : RegIdx) (s : State) : exec (.or x y) s = .next (s.setReg x (s.reg x ||| s.reg y)).advance := rfl

theorem exec_and (x y : RegIdx) (s : State) :
    exec (.and x y) s = .next (s.setReg x (s.reg x &&& s.reg y)).advance := rfl

theorem exec_xor (x y : RegIdx) (s : State) :
    exec (.xor x y) s = .next (s.setReg x (s.reg x ^^^ s.reg y)).advance := rfl

theorem exec_addReg (x y : RegIdx) (s : State) : exec (.addReg x y) s =
    .next (s.setFlagThenReg (carry (s.reg x) (s.reg y)) x fun t => t.reg x + t.reg y).advance := rfl

theorem exec_sub (x y : RegIdx) (s : State) : exec (.sub x y) s =
    .next (s.setFlagThenReg (notBorrow (s.reg x) (s.reg y)) x fun t => t.reg x - t.reg y).advance := rfl

theorem exec_subn (x y : RegIdx) (s : State) : exec (.subn x y) s =
    .next (s.setFlagThenReg (notBorrow (s.reg y) (s.reg x)) x fun t => t.reg y - t.reg x).advance := rfl

theorem exec_shr (x y : RegIdx) (s : State) : exec (.shr x y) s =
    .next (s.setFlagThenReg (shiftedOutRight (s.reg x)) x fun t => t.reg x >>> 1).advance := rfl

theorem exec_shl (x y : RegIdx) (s : State) : exec (.shl x y) s =
    .next (s.setFlagThenReg (shiftedOutLeft (s.reg x)) x fun t => t.reg x <<< 1).advance := rfl

theorem exec_rnd (x : RegIdx) (nn : Byte) (s : State) : exec (.rnd x nn) s =
    .next (s.countDraw.setReg x (Config.randomByte s.draws &&& nn)).advance := rfl

/-! ### Copy and bitwise operations -/

/-- Settles O29: each final state is one register write and the advance. -/
theorem copyAndBitwiseWriteOneRegister : Obligations.CopyAndBitwiseWriteOneRegister := by
  unfold Obligations.CopyAndBitwiseWriteOneRegister
  intro x y s
  exact ⟨decode_encode (.ldReg x y), decode_encode (.or x y), decode_encode (.and x y), decode_encode (.xor x y),
    ⟨_, exec_ldReg x y s, s.reg_setReg_advance x _, State.advance_pc _, s.unchangedBut_setReg_advance x _⟩,
    ⟨_, exec_or x y s, s.reg_setReg_advance x _, State.advance_pc _, s.unchangedBut_setReg_advance x _⟩,
    ⟨_, exec_and x y s, s.reg_setReg_advance x _, State.advance_pc _, s.unchangedBut_setReg_advance x _⟩,
    ⟨_, exec_xor x y s, s.reg_setReg_advance x _, State.advance_pc _, s.unchangedBut_setReg_advance x _⟩⟩

/-! ### Flag, then result -/

section FlagThenResult
variable (s : State) (c : Bool) (x : RegIdx) (f : State → Byte)

/-- The frame of a flag write, a result write and the advance: a register that is neither keeps its byte. -/
theorem State.unchangedBut_setFlagThenReg_advance :
    UnchangedBut s (s.setFlagThenReg c x f).advance [.pc, .reg x, .reg 0xF] := by
  intro p hp
  cases p with
  | pc => simp at hp
  | reg y =>
    obtain ⟨notResult, notFlag⟩ : y ≠ x ∧ y ≠ flagReg := by simpa using hp
    rw [Part.Same, State.reg_advance, State.reg_setFlagThenReg, if_neg notResult, if_neg notFlag]
  | _ => rfl

/-- The result register holds what the operation computes after the flag write (R23). -/
theorem State.reg_setFlagThenReg_result : (s.setFlagThenReg c x f).advance.reg x = f (s.setFlag c) := by
  rw [State.reg_advance, State.reg_setFlagThenReg, if_pos rfl]

/-- VF holds the flag when the result goes elsewhere (R23). -/
theorem State.reg_setFlagThenReg_flag {x : RegIdx} (other : x ≠ 0xF) :
    (s.setFlagThenReg c x f).advance.reg 0xF = flagByte c := by
  rw [State.reg_advance, State.reg_setFlagThenReg, if_neg (Ne.symm other), if_pos rfl]

end FlagThenResult

theorem toNat_flagByte_le (c : Bool) : (flagByte c).toNat ≤ 1 := by
  rw [toNat_flagByte]; split <;> decide


/-- Settles O30: the carry is `toNat_flagByte_carry`, and each operand is the new flag or an old register. -/
theorem addRegWritesCarryThenSum : Obligations.AddRegWritesCarryThenSum := by
  unfold Obligations.AddRegWritesCarryThenSum
  intro x y s
  refine ⟨decode_encode (.addReg x y), _, exec_addReg x y s, State.advance_pc _,
    s.unchangedBut_setFlagThenReg_advance _ x _, ?sum, fun other => ?carry⟩
  case carry => rw [State.reg_setFlagThenReg_flag _ _ _ other, toNat_flagByte_carry]
  case sum =>
    have small := toNat_flagByte_le (carry (s.reg x) (s.reg y))
    rw [State.reg_setFlagThenReg_result, ← toNat_flagByte_carry, BitVec.toNat_add, State.reg_setFlag, State.reg_setFlag]
    split_ifs <;> omega

/-- The difference of two bytes, as a number (R170). -/
theorem toNat_byte_sub (a b : Byte) : (a - b).toNat = (a.toNat + 256 - b.toNat) % 256 := by
  have := b.isLt
  rw [BitVec.toNat_sub]
  omega

/-- Settles O31: NOT borrow is `toNat_flagByte_notBorrow`, and each operand is the new flag or an old register. -/
theorem subtractionsWriteNotBorrowThenDifference : Obligations.SubtractionsWriteNotBorrowThenDifference := by
  unfold Obligations.SubtractionsWriteNotBorrowThenDifference
  intro x y s
  refine ⟨decode_encode (.sub x y), decode_encode (.subn x y),
    ⟨_, exec_sub x y s, State.advance_pc _, s.unchangedBut_setFlagThenReg_advance _ x _, ?sub, fun other => ?borrow⟩,
    ⟨_, exec_subn x y s, State.advance_pc _, s.unchangedBut_setFlagThenReg_advance _ x _, ?subn, fun other => ?borrow'⟩⟩
  case borrow | borrow' => rw [State.reg_setFlagThenReg_flag _ _ _ other, toNat_flagByte_notBorrow]
  case sub | subn =>
    rw [State.reg_setFlagThenReg_result, ← toNat_flagByte_notBorrow, toNat_byte_sub, State.reg_setFlag,
      State.reg_setFlag]
    split_ifs <;> omega

/-- A right shift of a byte halves it, and of a flag leaves 0 (R181). -/
theorem toNat_byte_shiftRight_one (v : Byte) : (v >>> 1).toNat = v.toNat / 2 := by
  rw [BitVec.toNat_ushiftRight, Nat.shiftRight_eq_div_pow]

/-- A left shift of a byte doubles it mod 256 (R183). -/
theorem toNat_byte_shiftLeft_one (v : Byte) : (v <<< 1).toNat = 2 * v.toNat % 256 := by
  rw [BitVec.toNat_shiftLeft, Nat.shiftLeft_eq]
  omega

/-- Settles O32: the flag is the bit shifted out of the old register, and Y stands in neither equation. -/
theorem shiftsWriteTheBitShiftedOutThenTheResult : Obligations.ShiftsWriteTheBitShiftedOutThenTheResult := by
  unfold Obligations.ShiftsWriteTheBitShiftedOutThenTheResult
  intro x y s
  refine ⟨decode_encode (.shr x y), decode_encode (.shl x y),
    ⟨_, exec_shr x y s, State.advance_pc _, s.unchangedBut_setFlagThenReg_advance _ x _, ?shr, fun other => ?low,
      fun z => exec_shr x z s⟩,
    ⟨_, exec_shl x y s, State.advance_pc _, s.unchangedBut_setFlagThenReg_advance _ x _, ?shl, fun other => ?high,
      fun z => exec_shl x z s⟩⟩
  case low => rw [State.reg_setFlagThenReg_flag _ _ _ other, toNat_flagByte_shiftedOutRight]
  case high => rw [State.reg_setFlagThenReg_flag _ _ _ other, toNat_flagByte_shiftedOutLeft]
  case shr =>
    have small := toNat_flagByte_le (shiftedOutRight (s.reg x))
    rw [State.reg_setFlagThenReg_result, toNat_byte_shiftRight_one, State.reg_setFlag]
    split_ifs <;> omega
  case shl =>
    have small := toNat_flagByte_le (shiftedOutLeft (s.reg x))
    rw [State.reg_setFlagThenReg_result, ← toNat_flagByte_shiftedOutLeft, toNat_byte_shiftLeft_one, State.reg_setFlag]
    split_ifs <;> omega

/-! ### Rand-mask -/

/-- Rand-mask's frame, for any byte stored: the count of draws is the third field it writes (assumption 2). -/
theorem State.unchangedBut_countDraw_setReg_advance (s : State) (x : RegIdx) (b : Byte) :
    UnchangedBut s (s.countDraw.setReg x b).advance [.pc, .reg x, .draws] := by
  intro p hp
  cases p with
  | pc => simp at hp
  | draws => simp at hp
  | reg y =>
    have other : y ≠ x := by simpa using hp
    exact State.reg_setReg_ne _ other b
  | _ => rfl

/-- Settles O33: the stored byte is a bitwise and with NN. -/
theorem randMaskStoresAMaskedFreeByte : Obligations.RandMaskStoresAMaskedFreeByte := by
  unfold Obligations.RandMaskStoresAMaskedFreeByte
  intro x nn s
  have stored := s.countDraw.reg_setReg_advance x (Config.randomByte s.draws &&& nn)
  refine ⟨decode_encode (.rnd x nn), _, exec_rnd x nn s, stored, rfl, rfl,
    s.unchangedBut_countDraw_setReg_advance x _, fun b _ clear => ?_⟩
  rw [stored, BitVec.getLsbD_and, clear, Bool.and_false]

/-! ### Repeated addition -/

/-- A sequence goes on from the state its first instruction answers. -/
theorem execAll_cons {i : Instr} {s t : State} (is : List Instr) (h : exec i s = .next t) :
    execAll (i :: is) s = execAll is t := by
  rw [execAll, h]

/-- `n` add-imms of one byte add its `n`-fold, and touch no other register (R172). -/
theorem execAll_replicate_addImm (x : RegIdx) (nn : Byte) : ∀ (n : Nat) (s : State),
    ∃ t, execAll (List.replicate n (.addImm x nn)) s = .next t ∧ t.reg x = s.reg x + BitVec.ofNat 8 n * nn ∧
      ∀ y, y ≠ x → t.reg y = s.reg y := by
  intro n
  induction n with
  | zero => exact fun s => ⟨s, rfl, by simp, fun _ _ => rfl⟩
  | succ n ih =>
    intro s
    obtain ⟨t, run, sum, others⟩ := ih (s.setReg x (s.reg x + nn)).advance
    refine ⟨t, (execAll_cons _ (exec_addImm x nn s)).trans run, ?_, fun y hy => ?_⟩
    · have fold : BitVec.ofNat 8 (n + 1) * nn = nn + BitVec.ofNat 8 n * nn := by
        rw [BitVec.ofNat_add, BitVec.add_mul, BitVec.one_mul, BitVec.add_comm]
      rw [sum, State.reg_setReg_advance, fold, BitVec.add_assoc]
    · rw [others y hy, State.reg_advance, State.reg_setReg_ne s hy]

/-- Settles O34: 256 times a byte is 0 mod 256. -/
theorem repeatedAddImmWrapsAround : Obligations.RepeatedAddImmWrapsAround := by
  unfold Obligations.RepeatedAddImmWrapsAround
  intro x nn s
  obtain ⟨t, run, sum, others⟩ := execAll_replicate_addImm x nn 256 (s.setReg x nn).advance
  refine ⟨t, (execAll_cons _ (exec_ldImm x nn s)).trans run, ?_, fun other => ?_⟩
  · rw [sum, State.reg_setReg_advance, show BitVec.ofNat 8 256 = 0#8 from rfl, BitVec.zero_mul, BitVec.add_zero]
  · rw [others _ (Ne.symm other), State.reg_advance, State.reg_setReg_ne s (Ne.symm other)]

end Sys2Proof.Machine
end

section
/-! The index and memory family (spec/44_index_memory.md R200 to R207). -/

namespace Sys2Proof.Machine

/-! ### Index arithmetic -/

theorem exec_addIVx (x : RegIdx) (s : State) : exec (.addIVx x) s =
    .next ((s.setFlag (indexOverflow s.I (s.reg x))).setI
      (s.I + zextByte ((s.setFlag (indexOverflow s.I (s.reg x))).reg x))).advance := rfl

theorem exec_ldFVx (x : RegIdx) (s : State) :
    exec (.ldFVx x) s = .next (s.setI (zextByte (s.reg x) * 5)).advance := rfl

/-- The frame of a flag write, an index write and the advance. -/
theorem State.unchangedBut_setFlag_setI_advance (s : State) (c : Bool) (w : Word) :
    UnchangedBut s ((s.setFlag c).setI w).advance [.pc, .index, .reg 0xF] := by
  intro p hp
  cases p with
  | pc => simp at hp
  | index => simp at hp
  | reg y =>
    have notFlag : y ≠ flagReg := by simpa using hp
    exact State.reg_setReg_ne s notFlag _
  | _ => rfl

/-- Settles O36: the flag is `toNat_flagByte_indexOverflow`, and the register added is read after it is written. -/
theorem addToIndexReportsOverflowThenAdds : Obligations.AddToIndexReportsOverflowThenAdds := by
  unfold Obligations.AddToIndexReportsOverflowThenAdds
  intro x s
  refine ⟨decode_encode (.addIVx x), _, exec_addIVx x s, State.advance_pc _,
    s.unchangedBut_setFlag_setI_advance _ _, ?flag, ?index⟩
  case flag => rw [State.reg_advance, State.reg_setI, State.reg_setFlag, if_pos rfl, toNat_flagByte_indexOverflow]
  case index =>
    rw [State.advance_I, State.setI_I, BitVec.toNat_add, zextByte_toNat, State.reg_setFlag,
      ← toNat_flagByte_indexOverflow, apply_ite BitVec.toNat]

/-- Settles O37: five times a byte stays below 65536, so nothing wraps (R203). -/
theorem fontCharAddressIsFiveTimesTheRegister : Obligations.FontCharAddressIsFiveTimesTheRegister := by
  unfold Obligations.FontCharAddressIsFiveTimesTheRegister
  intro x s
  refine ⟨decode_encode (.ldFVx x), _, exec_ldFVx x s, ?address, State.advance_pc _, s.unchangedBut_setI_advance _⟩
  case address =>
    have := (s.reg x).isLt
    rw [State.advance_I, State.setI_I, BitVec.toNat_mul, zextByte_toNat, show (5 : Word).toNat = 5 from rfl]
    omega

/-! ### Index-relative accesses -/

/-- The state store-bcd leaves when its three bytes are in range (R204). -/
def State.bcdStored (s : State) (x : RegIdx) : State :=
  (s.setMem (Memory.writeBytes s.mem s.base (bcdDigits (s.reg x)))).advance

/-- The state reg-dump leaves when its bytes are in range (R205). -/
def State.dumped (s : State) (x : RegIdx) : State :=
  ((s.setMem (Memory.writeBytes s.mem s.base (s.regsUpTo x))).advanceIndex x).advance

/-- The state reg-load leaves when its bytes are in range (R206). -/
def State.loaded (s : State) (x : RegIdx) : State := ((s.loadRegs s.base x).advanceIndex x).advance

section Access
variable {s : State} (x : RegIdx)

theorem exec_ldBVx : exec (.ldBVx x) s = s.access 3 (s.bcdStored x) := rfl

theorem exec_ldMemVx : exec (.ldMemVx x) s = s.access (x.toNat + 1) (s.dumped x) := rfl

theorem exec_ldVxMem : exec (.ldVxMem x) s = s.access (x.toNat + 1) (s.loaded x) := rfl

theorem exec_ldBVx_inRange (inRange : s.I.toNat + 2 ≤ 0xFFF) : exec (.ldBVx x) s = .next (s.bcdStored x) :=
  (exec_ldBVx x).trans (State.access_inRange (by rw [State.base]; omega))

theorem exec_ldMemVx_inRange (inRange : s.I.toNat + x.toNat ≤ 0xFFF) :
    exec (.ldMemVx x) s = .next (s.dumped x) :=
  (exec_ldMemVx x).trans (State.access_inRange (by rw [State.base]; omega))

theorem exec_ldVxMem_inRange (inRange : s.I.toNat + x.toNat ≤ 0xFFF) :
    exec (.ldVxMem x) s = .next (s.loaded x) :=
  (exec_ldVxMem x).trans (State.access_inRange (by rw [State.base]; omega))

/-- The index past the registers V0 to VX, when the last of them is in range (R205, R206). -/
theorem State.advanceIndex_I_toNat (inRange : s.I.toNat + x.toNat ≤ 0xFFF) :
    (s.advanceIndex x).I.toNat = s.I.toNat + x.toNat + 1 := by
  rw [State.advanceIndex, State.setI_I, BitVec.toNat_add, BitVec.toNat_ofNat]
  omega

/-- The frame of stored bytes and the advance: memory reads as before outside them. -/
theorem State.unchangedBut_bcdStored : UnchangedBut s (s.bcdStored x) (.pc :: memParts s.base 3) := by
  intro p hp
  obtain ⟨notPc, notStored⟩ := not_or.mp (mt List.mem_cons.mpr hp)
  cases p with
  | pc => exact absurd rfl notPc
  | mem a => exact Memory.read_writeBytes_outside (mem_not_mem_memParts notStored)
  | _ => rfl

/-- Reg-dump's frame: memory reads as before outside the stored registers. -/
theorem State.unchangedBut_dumped :
    UnchangedBut s (s.dumped x) ([.pc, .index] ++ memParts s.base (x.toNat + 1)) := by
  intro p hp
  obtain ⟨notField, notStored⟩ := not_or.mp (mt List.mem_append.mpr hp)
  cases p with
  | pc => simp at notField
  | index => simp at notField
  | mem a =>
    refine Memory.read_writeBytes_outside ?_
    rw [State.length_regsUpTo]
    exact mem_not_mem_memParts notStored
  | _ => rfl

/-- Reg-load's frame: a register above X keeps its byte. -/
theorem State.unchangedBut_loaded : UnchangedBut s (s.loaded x) ([.pc, .index] ++ regParts x) := by
  intro p hp
  obtain ⟨notField, notLoaded⟩ := not_or.mp (mt List.mem_append.mpr hp)
  obtain ⟨v, e⟩ := s.loadRegs_eq s.base x
  cases p with
  | pc => simp at notField
  | index => simp at notField
  | reg y => exact (s.reg_loadRegs s.base x y).trans (if_neg (Nat.not_le.mpr (reg_not_mem_regParts notLoaded)))
  | _ => simp only [Part.Same, State.loaded, State.advanceIndex, e]; rfl

/-- After a dump an address inside it reads as its register, any other as before (R205). -/
theorem State.read_dumped_eq (a : Nat) : Memory.read (s.dumped x).mem a =
    if s.I.toNat ≤ a ∧ a ≤ s.I.toNat + x.toNat then s.reg (BitVec.ofNat 4 (a - s.I.toNat))
    else Memory.read s.mem a := by
  show Memory.read (Memory.writeBytes s.mem s.base (s.regsUpTo x)) a = _
  split
  · next inside =>
    have lt : a - s.I.toNat < (s.regsUpTo x).length := by rw [State.length_regsUpTo]; omega
    rw [← s.getElem_regsUpTo x _ lt, ← Memory.read_writeBytes_inside lt, State.base, Nat.add_sub_cancel' inside.1]
  · next outside =>
    refine Memory.read_writeBytes_outside ?_
    rw [State.length_regsUpTo, State.base]
    omega

/-- The dump holds V[k] at I + k (R205). -/
theorem State.read_dumped {k : Nat} (hk : k ≤ x.toNat) :
    Memory.read (s.dumped x).mem (s.I.toNat + k) = s.reg (BitVec.ofNat 4 k) := by
  rw [s.read_dumped_eq x, if_pos (by omega), Nat.add_sub_cancel_left]

/-- V[k] holds the byte at I + k after a load (R206). -/
theorem State.reg_loaded {k : Nat} (hk : k ≤ x.toNat) :
    (s.loaded x).reg (BitVec.ofNat 4 k) = Memory.read s.mem (s.I.toNat + k) := by
  have number : (BitVec.ofNat 4 k).toNat = k := by
    have := x.isLt
    rw [BitVec.toNat_ofNat, Nat.mod_eq_of_lt (by omega)]
  refine (s.reg_loadRegs s.base x _).trans ?_
  rw [number, if_pos hk, State.base]

theorem State.loaded_I_toNat (inRange : s.I.toNat + x.toNat ≤ 0xFFF) :
    (s.loaded x).I.toNat = s.I.toNat + x.toNat + 1 := by
  rw [← State.advanceIndex_I_toNat x inRange]
  simp only [State.loaded, State.advanceIndex, State.advance_I, State.setI_I, State.loadRegs_I]

theorem State.loaded_pc : (s.loaded x).pc = s.pc + 2 := by
  simp only [State.loaded, State.advanceIndex, State.advance_pc, State.setI_pc, State.loadRegs_pc]

end Access

/-! ### Decimal digits -/

section Digits
variable (v : Byte)

/-- The first digit is at most 2, and fits a byte (R204). -/
theorem toNat_bcdHundreds : (BitVec.ofNat 8 (v.toNat / 100)).toNat = v.toNat / 100 := by
  have := v.isLt
  rw [BitVec.toNat_ofNat, Nat.mod_eq_of_lt (by omega)]

theorem toNat_bcdTens : (BitVec.ofNat 8 (v.toNat / 10 % 10)).toNat = v.toNat / 10 % 10 := by
  rw [BitVec.toNat_ofNat, Nat.mod_eq_of_lt (by omega)]

theorem toNat_bcdOnes : (BitVec.ofNat 8 (v.toNat % 10)).toNat = v.toNat % 10 := by
  rw [BitVec.toNat_ofNat, Nat.mod_eq_of_lt (by omega)]

end Digits

/-! ### Store-bcd, reg-dump and reg-load -/

/-- Settles O38: each digit is read back where it was stored; out of range the access raises. -/
theorem storeBcdWritesThreeDigits : Obligations.StoreBcdWritesThreeDigits := by
  unfold Obligations.StoreBcdWritesThreeDigits
  intro x s
  have stored (k : Nat) (hk : k < 3) :
      Memory.read (s.bcdStored x).mem (s.I.toNat + k) = (bcdDigits (s.reg x))[k] :=
    Memory.read_writeBytes_inside (vs := bcdDigits (s.reg x)) hk
  refine ⟨decode_encode (.ldBVx x), fun inRange => ?stores, fun out => ?raises⟩
  case raises => exact (exec_ldBVx x).trans (State.access_outOfRange (by rw [State.base]; omega) (by decide))
  case stores =>
    refine ⟨s.bcdStored x, exec_ldBVx_inRange x inRange, ?_, ?_, ?_, rfl,
      s.unchangedBut_bcdStored x⟩
    · rw [← Nat.add_zero s.I.toNat, stored 0 (by decide)]
      exact toNat_bcdHundreds _
    · rw [stored 1 (by decide)]
      exact toNat_bcdTens _
    · rw [stored 2 (by decide)]
      exact toNat_bcdOnes _

/-- Settles O39: each register is read back where it was stored; out of range the access raises. -/
theorem regDumpStoresTheRegisters : Obligations.RegDumpStoresTheRegisters := by
  unfold Obligations.RegDumpStoresTheRegisters
  intro x s
  refine ⟨decode_encode (.ldMemVx x), fun inRange => ?stores, fun out => ?raises⟩
  case raises => exact (exec_ldMemVx x).trans (State.access_outOfRange (by rw [State.base]; omega) (Nat.succ_pos _))
  case stores =>
    exact ⟨s.dumped x, exec_ldMemVx_inRange x inRange, fun k hk => s.read_dumped x hk,
      State.advanceIndex_I_toNat (s := s) x inRange, rfl, s.unchangedBut_dumped x⟩

/-- Settles O40: each register holds the byte of its own address; out of range the access raises. -/
theorem regLoadReadsTheRegisters : Obligations.RegLoadReadsTheRegisters := by
  unfold Obligations.RegLoadReadsTheRegisters
  intro x s
  refine ⟨decode_encode (.ldVxMem x), fun inRange => ?loads, fun out => ?raises⟩
  case raises => exact (exec_ldVxMem x).trans (State.access_outOfRange (by rw [State.base]; omega) (Nat.succ_pos _))
  case loads =>
    exact ⟨s.loaded x, exec_ldVxMem_inRange x inRange, fun k hk => s.reg_loaded x hk,
      s.loaded_I_toNat x inRange, s.loaded_pc x, s.unchangedBut_loaded x⟩

/-- Settles O41: reg-load reads the digits that store-bcd has stored, from the same I. -/
theorem bcdDigitsLoadBackToTheValue : Obligations.BcdDigitsLoadBackToTheValue := by
  unfold Obligations.BcdDigitsLoadBackToTheValue
  intro x s inRange
  obtain ⟨-, stores, -⟩ := storeBcdWritesThreeDigits x s
  obtain ⟨t, store, hundreds, tens, ones, -, frame⟩ := stores inRange
  have sameI : t.I = s.I := frame .index (by simp [memParts])
  obtain ⟨-, loads, -⟩ := regLoadReadsTheRegisters 2 t
  obtain ⟨u, load, regs, -⟩ := loads (by rw [sameI]; exact inRange)
  have v0 : u.reg 0 = _ := regs 0 (by decide)
  have v1 : u.reg 1 = _ := regs 1 (by decide)
  have v2 : u.reg 2 = _ := regs 2 (by decide)
  have := (s.reg x).isLt
  rw [sameI] at v0 v1 v2
  refine ⟨t, u, store, load, ?_⟩
  rw [v0, v1, v2, Nat.add_zero, hundreds, tens, ones]
  omega

/-- Settles O42: after a dump memory reads as `State.read_dumped_eq` says, and the fetch reads memory. -/
theorem storedBytesAreFetchedAtOnce : Obligations.StoredBytesAreFetchedAtOnce := by
  unfold Obligations.StoredBytesAreFetchedAtOnce
  intro x s p inRange low
  refine ⟨s.dumped x, exec_ldMemVx_inRange x inRange, State.fetch_ok_iff.mpr ⟨low, ?_⟩⟩
  rw [State.setPc_pc, State.setPc_mem, s.read_dumped_eq x, s.read_dumped_eq x]

end Sys2Proof.Machine
end

section
/-! The input family (spec/45_input.md R230 to R234) and the sound timer (spec/46_timers.md R253 to R255). -/

namespace Sys2Proof.Machine

/-! ### Key skips -/

section KeySkips
variable {s : State} {x : RegIdx}

/-- A key skip with V[X] naming a key skips on that key's state (R230). -/
theorem State.skipOnKey_named (pressed : Bool) (named : (s.reg x).toNat < 16) :
    s.skipOnKey x pressed = .next (s.skipIf (s.keyAt (s.reg x).toNat == pressed)) := if_pos named

/-- A key skip with V[X] above 15 raises (R230). -/
theorem State.skipOnKey_outOfRange (pressed : Bool) (out : ¬ (s.reg x).toNat < 16) :
    s.skipOnKey x pressed = .next (s.raise (.outOfBounds s.pc .key (s.reg x).toNat)) := if_neg out

theorem exec_skp : exec (.skp x) s = s.skipOnKey x true := rfl

theorem exec_sknp : exec (.sknp x) s = s.skipOnKey x false := rfl

end KeySkips

/-- A key below 16 is an entry of the key array (R31). -/
theorem State.keyAt_fin (s : State) (k : Fin 16) : s.keyAt k.val = s.key[k] := dif_pos k.isLt

/-- Settles O43: with V[X] naming a key both skips are a `State.skipIf`; above 15 both raise. -/
theorem keySkipsTestTheNamedKey : Obligations.KeySkipsTestTheNamedKey := by
  unfold Obligations.KeySkipsTestTheNamedKey
  intro x s
  refine ⟨decode_encode (.skp x), decode_encode (.sknp x), fun k named => ?named, fun out => ?out⟩
  case named =>
    have inRange : (s.reg x).toNat < 16 := named ▸ k.isLt
    refine ⟨⟨_, exec_skp.trans (State.skipOnKey_named true inRange), ?_, s.unchangedBut_skipIf _⟩,
      ⟨_, exec_sknp.trans (State.skipOnKey_named false inRange), ?_, s.unchangedBut_skipIf _⟩⟩
    all_goals rw [State.skipIf_pc, named, s.keyAt_fin]; cases s.key[k] <;> rfl
  case out =>
    exact ⟨exec_skp.trans (State.skipOnKey_outOfRange true (Nat.not_lt.mpr out)),
      exec_sknp.trans (State.skipOnKey_outOfRange false (Nat.not_lt.mpr out))⟩

/-! ### Wait-key -/

theorem exec_ldVxK_pressed {s : State} {k : Nat} (x : RegIdx) (h : s.lastPressed = some k) :
    exec (.ldVxK x) s = .next (s.setReg x (BitVec.ofNat 8 k)).advance := by
  rw [exec, execLdVxK, h]

theorem exec_ldVxK_none {s : State} (x : RegIdx) (h : s.lastPressed = none) : exec (.ldVxK x) s = .next s := by
  rw [exec, execLdVxK, h]

/-- Settles O44: the key scan's two outcomes are `State.lastPressed_none` and `State.lastPressed_some`. -/
theorem waitKeyTakesTheHighestPressedKey : Obligations.WaitKeyTakesTheHighestPressedKey := by
  unfold Obligations.WaitKeyTakesTheHighestPressedKey
  intro x s
  refine ⟨decode_encode (.ldVxK x), fun idle => exec_ldVxK_none x (State.lastPressed_none idle),
    fun k hk pressed highest => ?_⟩
  refine ⟨_, exec_ldVxK_pressed x (State.lastPressed_some hk pressed highest), ?number, State.advance_pc _,
    s.unchangedBut_setReg_advance x _⟩
  case number => rw [State.reg_setReg_advance, BitVec.toNat_ofNat, Nat.mod_eq_of_lt (by omega)]

/-! ### The sound timer -/

theorem exec_ldStVx (x : RegIdx) (s : State) : exec (.ldStVx x) s = .next (s.setSt (s.reg x)).advance := rfl

/-- The frame of one sound-timer write and the advance: each other part is a field neither update names. -/
theorem State.unchangedBut_setSt_advance (s : State) (b : Byte) : UnchangedBut s (s.setSt b).advance [.pc, .st] := by
  intro p hp
  cases p with
  | pc => simp at hp
  | st => simp at hp
  | _ => rfl

@[simp] theorem State.tick_st (s : State) : s.tick.st = countDown s.st := rfl
@[simp] theorem State.tick_audible (s : State) : s.tick.audible = decide (s.st.toNat > 0) := rfl
@[simp] theorem State.tick_beep (s : State) : s.tick.beep = decide (s.st.toNat = 1) := rfl

/-- A tick's frame: each other part is a field no update names. -/
theorem State.unchangedBut_tick (s : State) : UnchangedBut s s.tick [.dt, .st, .audible, .beep] := by
  intro p hp
  cases p with
  | dt => simp at hp
  | st => simp at hp
  | audible => simp at hp
  | beep => simp at hp
  | _ => rfl

/-- The countdown is subtraction clamped at zero (R254). -/
theorem toNat_countDown (b : Byte) : (countDown b).toNat = b.toNat - 1 := by
  have := b.isLt
  unfold countDown
  split
  · rw [BitVec.toNat_sub, show (1 : Byte).toNat = 1 from rfl]; omega
  · omega

/-- Settles O48: with the sound timer at 1 both outputs of a tick are true. -/
theorem setSoundLoadsTheSoundTimer : Obligations.SetSoundLoadsTheSoundTimer := by
  unfold Obligations.SetSoundLoadsTheSoundTimer
  intro x s
  refine ⟨decode_encode (.ldStVx x), _, exec_ldStVx x s, rfl, State.advance_pc _, s.unchangedBut_setSt_advance _, ?_⟩
  intro one
  rw [State.tick_audible, State.tick_beep, State.advance_st, State.setSt_st, one]
  decide

/-- Settles O49: the countdown is `toNat_countDown`, and each output of a tick is a function of one timer. -/
theorem tickCountsBothTimersDown : Obligations.TickCountsBothTimersDown := by
  unfold Obligations.TickCountsBothTimersDown
  refine ⟨fun s => ⟨toNat_countDown s.dt, toNat_countDown s.st, decide_eq_true_iff, decide_eq_true_iff,
    s.unchangedBut_tick⟩, fun s s' dt st => ?_⟩
  simp only [State.tick_dt, State.tick_st, State.tick_audible, State.tick_beep, dt, st, and_self]

end Sys2Proof.Machine
end

section
/-! Draw-sprite (spec/41_display.md R121 to R125). -/

namespace Sys2Proof.Machine

/-! ### Executing -/

/-- The state draw-sprite leaves when the sprite fits (R122). -/
def State.drawn (s : State) (collision : Bool) (fb : Framebuffer) : State :=
  (((s.setFlag collision).setFb fb).setRedraw true).advance

/-- The framebuffer and the collision flag of a sprite, or its first violation (R122, R124). -/
def State.drawing (s : State) (x y : RegIdx) (n : BitVec 4) : Except (Region × Nat) Canvas :=
  drawRows s.mem s.base (s.reg x).toNat (s.reg y).toNat (List.range n.toNat) (s.fb, false)

section Drawing
variable {s : State} {x y : RegIdx} {n : BitVec 4}

theorem exec_drw_ok {fb : Framebuffer} {collision : Bool} (h : s.drawing x y n = .ok (fb, collision)) :
    exec (.drw x y n) s = .next (s.drawn collision fb) := by
  rw [State.drawing] at h
  rw [exec, execDrw, h, State.drawn]

theorem exec_drw_error {region : Region} {a : Nat} (h : s.drawing x y n = .error (region, a)) :
    exec (.drw x y n) s = .next (s.raise (.outOfBounds s.pc region a)) := by
  rw [State.drawing] at h
  rw [exec, execDrw, h]

/-- The frame of a drawn sprite. -/
theorem State.unchangedBut_drawn (s : State) (collision : Bool) (fb : Framebuffer) :
    UnchangedBut s (s.drawn collision fb) ([.pc, .reg 0xF, .redraw] ++ cellParts) := by
  intro p hp
  obtain ⟨notField, notCell⟩ := not_or.mp (mt List.mem_append.mpr hp)
  cases p with
  | pc => simp at notField
  | redraw => simp at notField
  | reg z =>
    have notFlag : z ≠ flagReg := by simpa using notField
    exact State.reg_setReg_ne s notFlag _
  | cell c => simp only [Part.Same, cell_not_mem_cellParts notCell]
  | _ => rfl

@[simp] theorem State.drawn_fb (s : State) (collision : Bool) (fb : Framebuffer) : (s.drawn collision fb).fb = fb := rfl

@[simp] theorem State.drawn_mem (s : State) (collision : Bool) (fb : Framebuffer) :
    (s.drawn collision fb).mem = s.mem := rfl

@[simp] theorem State.drawn_base (s : State) (collision : Bool) (fb : Framebuffer) :
    (s.drawn collision fb).base = s.base := rfl

theorem State.drawn_flag (s : State) (collision : Bool) (fb : Framebuffer) :
    (s.drawn collision fb).reg 0xF = flagByte collision := s.reg_setReg_same flagReg _

/-! ### The sprite's cells -/

/-- The compositor's cover is the sprite's (R121). -/
theorem rowsCover_iff {c : Nat} :
    rowsCover s.mem s.base (s.reg x).toNat (s.reg y).toNat (List.range n.toNat) c = true ↔ s.SpriteCovers x y n c := by
  simp only [rowsCover, columnsCover, List.any_eq_true, List.mem_range, Bool.and_eq_true, decide_eq_true_eq]
  rfl

/-- The compositor's hit is a covered set cell (R123). -/
theorem rowsHit_iff : rowsHit s.mem s.base (s.reg x).toNat (s.reg y).toNat (List.range n.toNat) s.fb = true ↔
    ∃ c, s.SpriteCovers x y n c ∧ s.fb.cell c = true := by
  simp only [rowsHit, columnsHit, List.any_eq_true, List.mem_range, Bool.and_eq_true]
  constructor
  · rintro ⟨r, hr, c, hc, bit, set⟩
    exact ⟨_, ⟨r, hr, c, hc, bit, rfl⟩, set⟩
  · rintro ⟨_, ⟨r, hr, c, hc, bit, rfl⟩, set⟩
    exact ⟨r, hr, c, hc, bit, set⟩

/-- A sprite that fits is drawn: a cell flips exactly when the sprite covers it, and VF tells whether a covered cell was
set (R122, R123). -/
theorem exec_drw_of_fits (fits : s.SpriteFits x y n) :
    ∃ fb collision, exec (.drw x y n) s = .next (s.drawn collision fb) ∧
      (∀ c, fb.cell c = true ↔ ¬(s.fb.cell c = true ↔ s.SpriteCovers x y n c)) ∧
      (collision = true ↔ ∃ c, s.SpriteCovers x y n c ∧ s.fb.cell c = true) := by
  obtain ⟨fb, drawing, cells⟩ := drawRows_ok s.mem s.base (s.reg x).toNat (s.reg y).toNat (List.range n.toNat)
    (s.fb, false) List.nodup_range fun r hr => fits r (List.mem_range.mp hr)
  refine ⟨fb, _, exec_drw_ok drawing, fun c => ?cells, ?collision⟩
  case cells => rw [cells, Bool.xor_iff_ne, Ne, Bool.eq_iff_iff, rowsCover_iff]
  case collision => rw [Bool.false_or, rowsHit_iff]

end Drawing

/-- A flag byte tells its condition apart from its opposite. -/
theorem flagByte_eq_one_or_zero {c : Bool} {P : Prop} (h : c = true ↔ P) :
    (flagByte c = 1 ∧ P) ∨ (flagByte c = 0 ∧ ¬P) := by
  cases c with
  | true => exact .inl ⟨rfl, h.mp rfl⟩
  | false => exact .inr ⟨rfl, fun p => Bool.false_ne_true (h.mpr p)⟩

/-- Settles O21: `exec_drw_of_fits`, with VF read out of the flag byte. -/
theorem drawSpriteXorsTheSpriteAndReportsCollision : Obligations.DrawSpriteXorsTheSpriteAndReportsCollision := by
  unfold Obligations.DrawSpriteXorsTheSpriteAndReportsCollision
  intro x y n s
  refine ⟨decode_encode (.drw x y n), fun fits => ?_⟩
  obtain ⟨fb, collision, run, cells, hit⟩ := exec_drw_of_fits fits
  refine ⟨s.drawn collision fb, run, fun c _ => cells c, ?_, rfl, rfl, s.unchangedBut_drawn collision fb⟩
  rw [s.drawn_flag]
  exact flagByte_eq_one_or_zero hit

/-! ### Violations -/

/-- The numbers below `n`, cut at one of them. -/
theorem range_split {n r : Nat} (h : r < n) :
    List.range n = List.range r ++ r :: List.range' (r + 1) (n - (r + 1)) := by
  obtain ⟨k, rfl⟩ := Nat.exists_eq_add_of_lt h
  rw [show r + k + 1 - (r + 1) = k by omega, ← List.range'_succ, List.range_eq_range', List.range_eq_range',
    Nat.add_assoc, ← List.range'_append_1, Nat.zero_add]

/-- Settles O22: the rows before the violation fit, so the compositor reaches it (`drawRows_memory_error`,
`drawRows_cell_error`). -/
theorem drawSpriteReportsTheFirstViolation : Obligations.DrawSpriteReportsTheFirstViolation := by
  unfold Obligations.DrawSpriteReportsTheFirstViolation
  intro x y n s r hr fit
  have rows := range_split hr
  have before : ∀ d ∈ List.range r, rowFits s.mem s.base (s.reg x).toNat (s.reg y).toNat d :=
    fun d hd => fit d (List.mem_range.mp hd)
  refine ⟨fun out => exec_drw_error ?memory, fun c hc top columns bit out => exec_drw_error ?cell⟩
  case memory => rw [State.drawing, rows, drawRows_memory_error _ _ _ _ r _ _ _ before out]
  case cell => rw [State.drawing, rows]; exact drawRows_cell_error _ _ _ _ r c _ _ _ before top hc columns bit out

/-! ### Drawing twice -/

/-- A drawn sprite lies where it lay, when neither X nor Y is the flag register (R122). -/
theorem State.spriteCovers_drawn {s : State} {x y : RegIdx} (hx : x ≠ 0xF) (hy : y ≠ 0xF) (n : BitVec 4)
    (collision : Bool) (fb : Framebuffer) (c : Nat) :
    (s.drawn collision fb).SpriteCovers x y n c ↔ s.SpriteCovers x y n c := by
  have rx : (s.drawn collision fb).reg x = s.reg x := s.reg_setReg_ne hx _
  have ry : (s.drawn collision fb).reg y = s.reg y := s.reg_setReg_ne hy _
  simp only [State.SpriteCovers, State.spriteBit, State.spriteCell, State.drawn_mem, State.drawn_base, rx, ry]

/-- A drawn sprite still fits, when neither X nor Y is the flag register (R122). -/
theorem State.spriteFits_drawn {s : State} {x y : RegIdx} (hx : x ≠ 0xF) (hy : y ≠ 0xF) {n : BitVec 4}
    (collision : Bool) (fb : Framebuffer) (fits : s.SpriteFits x y n) : (s.drawn collision fb).SpriteFits x y n := by
  have rx : (s.drawn collision fb).reg x = s.reg x := s.reg_setReg_ne hx _
  have ry : (s.drawn collision fb).reg y = s.reg y := s.reg_setReg_ne hy _
  simpa only [State.SpriteFits, State.RowFits, State.spriteBit, State.spriteCell, State.drawn_mem, State.drawn_base,
    rx, ry] using fits

/-- Settles O23: the second draw flips the same cells back, and meets a set cell exactly where the first met a clear
one. -/
theorem drawingTwiceRestoresTheFramebuffer : Obligations.DrawingTwiceRestoresTheFramebuffer := by
  unfold Obligations.DrawingTwiceRestoresTheFramebuffer
  intro x y n s hx hy fits
  obtain ⟨fb, collision, draw, cells, -⟩ := exec_drw_of_fits fits
  obtain ⟨fb', collision', draw', cells', hit'⟩ :=
    exec_drw_of_fits (State.spriteFits_drawn hx hy collision fb fits)
  simp only [State.drawn_fb, State.spriteCovers_drawn hx hy] at cells' hit'
  refine ⟨_, _, draw, draw', fun c _ => ?restored, ?flag⟩
  case restored =>
    rw [State.drawn_fb, Bool.eq_iff_iff, cells', cells]
    tauto
  case flag =>
    rw [State.drawn_flag]
    refine flagByte_eq_one_or_zero (hit'.trans (exists_congr fun c => and_congr_right fun covered => ?_))
    rw [cells, ← Bool.not_eq_true]
    tauto

end Sys2Proof.Machine
end

section
/-! What every instruction can do, said once: it completes inside its frame, or it raises and changes nothing else
(spec/10_state.md R20 to R33, spec/60_exceptions.md R300 to R304). -/

namespace Sys2Proof.Machine

/-! ### The invariant -/

/-- The invariant speaks of memory, the stack and pc only. -/
theorem State.Inv.of_eq {s t : State} (inv : s.Inv) (mem : t.mem = s.mem) (stack : t.stack = s.stack)
    (sp : t.sp = s.sp) (pc : t.pc.toNat ≤ 0x10FE) : t.Inv := by
  obtain ⟨wf, -, live⟩ := inv
  exact ⟨mem ▸ wf, pc, fun k hk => by rw [stack]; exact live k (sp ▸ hk)⟩

/-- A transition that touches none of the three keeps the invariant. -/
theorem State.Inv.of_same {s t : State} (inv : s.Inv) (mem : t.mem = s.mem) (stack : t.stack = s.stack)
    (sp : t.sp = s.sp) (pc : t.pc = s.pc) : t.Inv := inv.of_eq mem stack sp (pc ▸ inv.2.1)

/-- From a fetchable pc a skip or an advance stays below the bound (R26). -/
theorem pc_add_le {pc k : Word} (low : pc.toNat ≤ 0xFFE) (hk : k.toNat ≤ 4) : (pc + k).toNat ≤ 0x10FE := by
  rw [BitVec.toNat_add]
  omega

/-- After a memory store inside the address space and an advance the invariant holds (R55). -/
theorem State.Inv.of_store {s t : State} (inv : s.Inv) {a : Nat} {vs : List Byte} (top : a + vs.length ≤ 0x1000)
    (mem : t.mem = Memory.writeBytes s.mem a vs) (stack : t.stack = s.stack) (sp : t.sp = s.sp)
    (pc : t.pc.toNat ≤ 0x10FE) : t.Inv := by
  obtain ⟨wf, -, live⟩ := inv
  exact ⟨mem ▸ Memory.wf_writeBytes vs top wf, pc, fun k hk => by rw [stack]; exact live k (sp ▸ hk)⟩

/-- A call pushes a fetchable address, so live entries stay addresses of calls (R140, R142). -/
theorem State.inv_called {s : State} (nnn : BitVec 12) (room : s.sp.val < 16) (low : s.pc.toNat ≤ 0xFFE) (inv : s.Inv) :
    (s.called nnn room).Inv := by
  obtain ⟨wf, -, live⟩ := inv
  refine ⟨wf, ?pc, fun k hk => ?entries⟩
  case pc =>
    have := nnn.isLt
    rw [State.called, State.setPc_pc, addressOperand_toNat]
    omega
  case entries =>
    have pushed : (s.called nnn room).stack = s.stack.set s.sp.val s.pc := rfl
    have depth : k.val < s.sp.val + 1 := hk
    simp only [pushed, Fin.getElem_fin, Vector.getElem_set]
    split
    · exact low
    · exact live k (by omega)

/-- A return goes two bytes past a live entry (R140). -/
theorem State.inv_returned {s : State} (live : s.sp.val ≠ 0) (inv : s.Inv) : s.returned.Inv := by
  obtain ⟨wf, -, entries⟩ := inv
  have top : s.top.toNat ≤ 0xFFE := entries ⟨s.sp.val - 1, by omega⟩ (by simp only; omega)
  refine ⟨wf, pc_add_le top (by decide), fun k hk => entries k ?_⟩
  have depth : k.val < s.sp.val - 1 := hk
  omega

/-! ### Completing -/

/-- `t` is what an instruction may complete with from `s`, writing the listed parts: they alone change, the latch does
not, and from a fetchable pc the invariant is kept. -/
structure State.Completes (s t : State) (ps : List Part) : Prop where
  frame : UnchangedBut s t ps
  err : t.err = s.err
  inv : s.pc.toNat ≤ 0xFFE → s.Inv → t.Inv

namespace State.Completes
variable (s : State) (x : RegIdx)

/-- An update that leaves memory and stack alone and moves pc by 2. -/
theorem of_advance {s t : State} {ps : List Part} (frame : UnchangedBut s t ps) (err : t.err = s.err)
    (mem : t.mem = s.mem) (stack : t.stack = s.stack) (sp : t.sp = s.sp) (pc : t.pc = s.pc + 2) : s.Completes t ps :=
  ⟨frame, err, fun low inv => inv.of_eq mem stack sp (pc ▸ pc_add_le low (by decide))⟩

theorem mono {s t : State} {ps qs : List Part} (h : s.Completes t ps) (sub : ps ⊆ qs) : s.Completes t qs :=
  ⟨h.frame.mono sub, h.err, h.inv⟩

/-- More fields may be named in front of a list of bytes, registers or cells. -/
theorem mono_append {s t : State} {ps qs rs : List Part} (h : s.Completes t (ps ++ rs)) (sub : ps ⊆ qs) :
    s.Completes t (qs ++ rs) :=
  h.mono (List.append_subset_of_subset_of_subset (fun _ hp => List.mem_append_left rs (sub hp))
    (List.subset_append_right qs rs))

theorem setReg_advance (b : Byte) : s.Completes (s.setReg x b).advance [.pc, .reg x] :=
  of_advance (s.unchangedBut_setReg_advance x b) rfl rfl rfl rfl rfl

theorem countDraw_setReg_advance (b : Byte) : s.Completes (s.countDraw.setReg x b).advance [.pc, .reg x, .draws] :=
  of_advance (s.unchangedBut_countDraw_setReg_advance x b) rfl rfl rfl rfl rfl

theorem setFlagThenReg_advance (c : Bool) (f : State → Byte) :
    s.Completes (s.setFlagThenReg c x f).advance [.pc, .reg x, .reg flagReg] :=
  of_advance (s.unchangedBut_setFlagThenReg_advance c x f) rfl rfl rfl rfl rfl

theorem setFlag_setI_advance (c : Bool) (w : Word) :
    s.Completes ((s.setFlag c).setI w).advance [.pc, .index, .reg flagReg] :=
  of_advance (s.unchangedBut_setFlag_setI_advance c w) rfl rfl rfl rfl rfl

theorem setI_advance (w : Word) : s.Completes (s.setI w).advance [.pc, .index] :=
  of_advance (s.unchangedBut_setI_advance w) rfl rfl rfl rfl rfl

theorem setDt_advance (b : Byte) : s.Completes (s.setDt b).advance [.pc, .dt] :=
  of_advance (s.unchangedBut_setDt_advance b) rfl rfl rfl rfl rfl

theorem setSt_advance (b : Byte) : s.Completes (s.setSt b).advance [.pc, .st] :=
  of_advance (s.unchangedBut_setSt_advance b) rfl rfl rfl rfl rfl

theorem cleared : s.Completes s.cleared ([.pc, .redraw] ++ cellParts) :=
  of_advance s.unchangedBut_cleared rfl rfl rfl rfl rfl

theorem drawn (collision : Bool) (fb : Framebuffer) :
    s.Completes (s.drawn collision fb) ([.pc, .reg flagReg, .redraw] ++ cellParts) :=
  of_advance (s.unchangedBut_drawn collision fb) rfl rfl rfl rfl rfl

theorem loaded : s.Completes (s.loaded x) ([.pc, .index] ++ regParts x) :=
  of_advance (s.unchangedBut_loaded x) (by simp [State.loaded, State.advanceIndex])
    (by simp [State.loaded, State.advanceIndex]) (by simp [State.loaded, State.advanceIndex])
    (by simp [State.loaded, State.advanceIndex]) (s.loaded_pc x)

theorem skipIf (c : Bool) : s.Completes (s.skipIf c) [.pc] :=
  ⟨s.unchangedBut_skipIf c, rfl, fun low inv =>
    inv.of_eq rfl rfl rfl (pc_add_le low (by cases c <;> decide))⟩

/-- A jump to an address at or below 0x10FE (R26). -/
theorem setPc {w : Word} (top : w.toNat ≤ 0x10FE) : s.Completes (s.setPc w) [.pc] :=
  ⟨s.unchangedBut_setPc w, rfl, fun _ inv => inv.of_eq rfl rfl rfl top⟩

theorem unchanged (ps : List Part) : s.Completes s ps := ⟨.refl s ps, rfl, fun _ inv => inv⟩

theorem called (nnn : BitVec 12) (room : s.sp.val < 16) :
    s.Completes (s.called nnn room) [.pc, .sp, .stack s.sp.val] :=
  ⟨s.unchangedBut_called nnn room, rfl, State.inv_called nnn room⟩

theorem returned {s : State} (live : s.sp.val ≠ 0) : s.Completes s.returned [.pc, .sp] :=
  ⟨s.unchangedBut_returned, rfl, fun _ => State.inv_returned live⟩

theorem bcdStored {s : State} (inRange : s.base + 3 ≤ 0x1000) :
    s.Completes (s.bcdStored x) (.pc :: memParts s.base 3) :=
  ⟨s.unchangedBut_bcdStored x, rfl, fun low inv => inv.of_store inRange rfl rfl rfl (pc_add_le low (by decide))⟩

theorem dumped {s : State} {x : RegIdx} (inRange : s.base + (x.toNat + 1) ≤ 0x1000) :
    s.Completes (s.dumped x) ([.pc, .index] ++ memParts s.base (x.toNat + 1)) :=
  ⟨s.unchangedBut_dumped x, rfl, fun low inv =>
    inv.of_store (by rw [s.length_regsUpTo x]; exact inRange) rfl rfl rfl (pc_add_le low (by decide))⟩

end State.Completes

/-! ### Raising -/

/-- The records an instruction at an address can raise (R300, R301). -/
def Raises (i : Instr) (pc : Word) (r : ErrorRecord) : Prop :=
  match i with
  | .call _ => r = .stackOverflow pc
  | .ret => r = .stackUnderflow pc
  | .drw _ _ _ => ∃ a, (r = .outOfBounds pc .memory a ∧ 0xFFF < a) ∨ (r = .outOfBounds pc .framebuffer a ∧ 2048 ≤ a)
  | .ldBVx _ | .ldMemVx _ | .ldVxMem _ => ∃ a, r = .outOfBounds pc .memory a ∧ 0xFFF < a
  | .skp _ | .sknp _ => ∃ k, r = .outOfBounds pc .key k ∧ 15 < k
  | _ => False

/-- What can raise may write the latch (R33). -/
theorem Raises.err_mem_mayWrite {i : Instr} {pc : Word} {r : ErrorRecord} (h : Raises i pc r) (s : State) :
    .err ∈ mayWrite i s := by
  cases i with
  | call | ret | drw | ldBVx | ldMemVx | ldVxMem | skp | sknp => simp [mayWrite]
  | _ => exact h.elim

/-- An instruction's one answer: it completes inside its frame, or it raises one of its records. -/
def Answers (i : Instr) (s : State) (a : Result) : Prop :=
  (∃ t, a = .next t ∧ s.Completes t (mayWrite i s)) ∨ (∃ r, a = .next (s.raise r) ∧ Raises i s.pc r)

theorem answers_access {i : Instr} {s e : State} {n : Nat} (pos : 0 < n)
    (complete : s.base + n ≤ 0x1000 → s.Completes e (mayWrite i s))
    (raise : ∀ a, 0xFFF < a → Raises i s.pc (.outOfBounds s.pc .memory a)) : Answers i s (s.access n e) := by
  by_cases inRange : s.base + n ≤ 0x1000
  · exact .inl ⟨e, State.access_inRange inRange, complete inRange⟩
  · exact .inr ⟨_, State.access_outOfRange (Nat.lt_of_not_le inRange) pos, raise _ (by omega)⟩

theorem answers_skipOnKey {i : Instr} {s : State} {x : RegIdx} (pressed : Bool) (write : [.pc] ⊆ mayWrite i s)
    (raise : ∀ k, 15 < k → Raises i s.pc (.outOfBounds s.pc .key k)) : Answers i s (s.skipOnKey x pressed) := by
  by_cases named : (s.reg x).toNat < 16
  · exact .inl ⟨_, State.skipOnKey_named pressed named, (State.Completes.skipIf s _).mono write⟩
  · exact .inr ⟨_, State.skipOnKey_outOfRange pressed named, raise _ (by omega)⟩

theorem answers_drw (s : State) (x y : RegIdx) (n : BitVec 4) : Answers (.drw x y n) s (exec (.drw x y n) s) := by
  cases drawing : s.drawing x y n with
  | ok k => exact .inl ⟨_, exec_drw_ok drawing, (State.Completes.drawn s k.2 k.1).mono_append (by simp)⟩
  | error e =>
    refine .inr ⟨_, exec_drw_error drawing, e.2, ?_⟩
    obtain ⟨region, a⟩ := e
    obtain ⟨rfl, out⟩ | ⟨rfl, out⟩ := drawRows_error_bound _ _ _ _ _ _ _ drawing
    · exact .inl ⟨rfl, out⟩
    · exact .inr ⟨rfl, out⟩

/-- Every instruction answers, whatever the step's random byte (R107). -/
theorem answers_execWith (rnd : Byte) (i : Instr) (s : State) : Answers i s (execWith rnd i s) := by
  cases i with
  | cls => exact .inl ⟨_, exec_cls s, .cleared s⟩
  | ret =>
    by_cases live : s.sp.val = 0
    · exact .inr ⟨_, exec_ret_empty live, rfl⟩
    · exact .inl ⟨_, exec_ret_live live, (State.Completes.returned live).mono (by simp [mayWrite])⟩
  | jp nnn =>
    exact .inl ⟨_, exec_jp nnn s, .setPc s (by rw [addressOperand_toNat]; omega)⟩
  | call nnn =>
    by_cases room : s.sp.val < 16
    · exact .inl ⟨_, exec_call_room nnn room, (State.Completes.called s nnn room).mono (by simp [mayWrite])⟩
    · exact .inr ⟨_, exec_call_full nnn room, rfl⟩
  | seImm x nn => exact .inl ⟨_, exec_seImm x nn s, .skipIf s _⟩
  | sneImm x nn => exact .inl ⟨_, exec_sneImm x nn s, .skipIf s _⟩
  | seReg x y => exact .inl ⟨_, exec_seReg x y s, .skipIf s _⟩
  | sneReg x y => exact .inl ⟨_, exec_sneReg x y s, .skipIf s _⟩
  | ldImm x nn => exact .inl ⟨_, exec_ldImm x nn s, .setReg_advance s x _⟩
  | addImm x nn => exact .inl ⟨_, exec_addImm x nn s, .setReg_advance s x _⟩
  | ldReg x y => exact .inl ⟨_, exec_ldReg x y s, .setReg_advance s x _⟩
  | or x y => exact .inl ⟨_, exec_or x y s, .setReg_advance s x _⟩
  | and x y => exact .inl ⟨_, exec_and x y s, .setReg_advance s x _⟩
  | xor x y => exact .inl ⟨_, exec_xor x y s, .setReg_advance s x _⟩
  | addReg x y => exact .inl ⟨_, exec_addReg x y s, .setFlagThenReg_advance s x _ _⟩
  | sub x y => exact .inl ⟨_, exec_sub x y s, .setFlagThenReg_advance s x _ _⟩
  | shr x y => exact .inl ⟨_, exec_shr x y s, .setFlagThenReg_advance s x _ _⟩
  | subn x y => exact .inl ⟨_, exec_subn x y s, .setFlagThenReg_advance s x _ _⟩
  | shl x y => exact .inl ⟨_, exec_shl x y s, .setFlagThenReg_advance s x _ _⟩
  | ldI nnn => exact .inl ⟨_, exec_ldI nnn s, .setI_advance s _⟩
  | jpV0 nnn =>
    exact .inl ⟨_, exec_jpV0 nnn s, .setPc s (by rw [addressOperand_add_zextByte_toNat]; omega)⟩
  | rnd x nn => exact .inl ⟨_, rfl, .countDraw_setReg_advance s x _⟩
  | drw x y n => exact answers_drw s x y n
  | skp x => exact answers_skipOnKey true (by simp [mayWrite]) fun k hk => ⟨k, rfl, hk⟩
  | sknp x => exact answers_skipOnKey false (by simp [mayWrite]) fun k hk => ⟨k, rfl, hk⟩
  | ldVxDt x => exact .inl ⟨_, exec_ldVxDt x s, .setReg_advance s x _⟩
  | ldVxK x =>
    cases scan : s.lastPressed with
    | none => exact .inl ⟨_, exec_ldVxK_none x scan, .unchanged s _⟩
    | some k => exact .inl ⟨_, exec_ldVxK_pressed x scan, .setReg_advance s x _⟩
  | ldDtVx x => exact .inl ⟨_, exec_ldDtVx x s, .setDt_advance s _⟩
  | ldStVx x => exact .inl ⟨_, exec_ldStVx x s, .setSt_advance s _⟩
  | addIVx x => exact .inl ⟨_, exec_addIVx x s, .setFlag_setI_advance s _ _⟩
  | ldFVx x => exact .inl ⟨_, exec_ldFVx x s, .setI_advance s _⟩
  | ldBVx x =>
    exact answers_access (by decide) (fun inRange => (State.Completes.bcdStored x inRange).mono (by simp [mayWrite]))
      fun a out => ⟨a, rfl, out⟩
  | ldMemVx x =>
    exact answers_access (Nat.succ_pos _)
      (fun inRange => (State.Completes.dumped inRange).mono_append (by simp)) fun a out => ⟨a, rfl, out⟩
  | ldVxMem x =>
    exact answers_access (Nat.succ_pos _)
      (fun _ => (State.Completes.loaded s x).mono_append (by simp)) fun a out => ⟨a, rfl, out⟩

/-- `exec` takes the free byte of this draw (assumption 2). -/
theorem exec_eq_execWith (i : Instr) (s : State) : exec i s = execWith (Config.randomByte s.draws) i s := by
  cases i <;> rfl

/-- What an instruction that answered `t` can have been. -/
theorem execWith_cases_next {rnd : Byte} {i : Instr} {s t : State} (h : execWith rnd i s = .next t) :
    s.Completes t (mayWrite i s) ∨ ∃ r, t = s.raise r ∧ Raises i s.pc r := by
  obtain ⟨u, run, complete⟩ | ⟨r, run, raises⟩ := answers_execWith rnd i s
  · cases h.symm.trans run; exact .inl complete
  · cases h.symm.trans run; exact .inr ⟨r, rfl, raises⟩

theorem exec_cases_next {i : Instr} {s t : State} (h : exec i s = .next t) :
    s.Completes t (mayWrite i s) ∨ ∃ r, t = s.raise r ∧ Raises i s.pc r :=
  execWith_cases_next (exec_eq_execWith i s ▸ h)

/-- An instruction that latches a record has raised it. -/
theorem execWith_raised {rnd : Byte} {i : Instr} {s t : State} {r : ErrorRecord} (clear : s.err = none)
    (h : execWith rnd i s = .next t) (latched : t.err = some r) : t = s.raise r ∧ Raises i s.pc r := by
  obtain complete | ⟨r', rfl, raises⟩ := execWith_cases_next h
  · have := complete.err
    simp [latched, clear] at this
  · cases latched
    exact ⟨rfl, raises⟩

end Sys2Proof.Machine
end

section
/-! The statements about all instructions: completion, frames, the flag register, errors, and what no instruction reads
(spec/10_state.md R22, R29, R35, spec/40_step_cycle.md R107, spec/60_exceptions.md R300 to R304). -/

namespace Sys2Proof.Machine

/-! ### Frames -/

theorem exec_next (i : Instr) (s : State) : ∃ t, exec i s = .next t := by
  rw [exec_eq_execWith]
  obtain ⟨t, run, -⟩ | ⟨r, run, -⟩ := answers_execWith (Config.randomByte s.draws) i s
  · exact ⟨t, run⟩
  · exact ⟨_, run⟩

theorem exec_frame {i : Instr} {s t : State} (h : exec i s = .next t) : UnchangedBut s t (mayWrite i s) := by
  obtain complete | ⟨r, rfl, raises⟩ := exec_cases_next h
  · exact complete.frame
  · exact (s.unchangedBut_raise r).mono (by simpa using raises.err_mem_mayWrite s)

/-- Settles O17: `exec_frame`. -/
theorem everyInstructionWritesOnlyWhatItMay : Obligations.EveryInstructionWritesOnlyWhatItMay := by
  unfold Obligations.EveryInstructionWritesOnlyWhatItMay
  exact fun _ _ _ => exec_frame

/-- A register is no byte of memory. -/
theorem reg_not_mem_memParts (y : RegIdx) (base n : Nat) : .reg y ∉ memParts base n := by
  simp [mem_memParts]

/-- A register is no cell of the framebuffer. -/
theorem reg_not_mem_cellParts (y : RegIdx) : .reg y ∉ cellParts := by
  simp [mem_cellParts]

/-- VF is among V0 to VX for X = VF only. -/
theorem flag_mem_regParts {x : RegIdx} (h : .reg 0xF ∈ regParts x) : x = 0xF := by
  obtain ⟨k, hk, e⟩ := mem_regParts.mp h
  have number : 15 = k % 16 := congrArg BitVec.toNat (Part.reg.inj e)
  have bound := x.isLt
  exact BitVec.eq_of_toNat_eq (show x.toNat = 15 by omega)

/-- Settles O18: a changed VF lies in the instruction's frame, and the frames that hold VF are those listed. -/
theorem onlySevenInstructionsWriteTheFlagImplicitly : Obligations.OnlySevenInstructionsWriteTheFlagImplicitly := by
  unfold Obligations.OnlySevenInstructionsWriteTheFlagImplicitly
  intro i s t run changed
  have written : .reg 0xF ∈ mayWrite i s := by
    by_contra outside
    exact changed (exec_frame run _ outside)
  cases i with
  | addReg x y | sub x y | shr x y | subn x y | shl x y | drw x y n => exact .inl ⟨x, y, by simp⟩
  | addIVx x => exact .inr (.inl ⟨x, rfl⟩)
  | ldImm x _ | addImm x _ | rnd x _ | ldReg x _ | or x _ | and x _ | xor x _ | ldVxDt x | ldVxK x =>
    obtain rfl : x = 0xF := by simpa [mayWrite, eq_comm] using written
    simp
  | ldVxMem x =>
    obtain rfl : x = 0xF := flag_mem_regParts (by simpa [mayWrite] using written)
    simp
  | _ => simp [mayWrite, reg_not_mem_memParts, reg_not_mem_cellParts] at written

/-! ### Errors -/

theorem exec_raised {i : Instr} {s t : State} {r : ErrorRecord} (clear : s.err = none) (h : exec i s = .next t)
    (latched : t.err = some r) : t = s.raise r ∧ Raises i s.pc r :=
  execWith_raised clear (exec_eq_execWith i s ▸ h) latched

/-- Settles O15: `Raises` is the list, read case by case. -/
theorem onlyTheListedInstructionsRaise : Obligations.OnlyTheListedInstructionsRaise := by
  unfold Obligations.OnlyTheListedInstructionsRaise
  intro i s t r clear run latched
  obtain ⟨-, raises⟩ := exec_raised clear run latched
  cases i with
  | call nnn => exact .inl ⟨nnn, rfl, raises⟩
  | ret => exact .inr (.inl ⟨rfl, raises⟩)
  | drw x y n => obtain ⟨a, h⟩ := raises; exact .inr (.inr (.inl ⟨x, y, n, a, rfl, h⟩))
  | ldBVx x => obtain ⟨a, h⟩ := raises; exact .inr (.inr (.inr (.inl ⟨x, a, .inl rfl, h⟩)))
  | ldMemVx x => obtain ⟨a, h⟩ := raises; exact .inr (.inr (.inr (.inl ⟨x, a, .inr (.inl rfl), h⟩)))
  | ldVxMem x => obtain ⟨a, h⟩ := raises; exact .inr (.inr (.inr (.inl ⟨x, a, .inr (.inr rfl), h⟩)))
  | skp x => obtain ⟨k, h⟩ := raises; exact .inr (.inr (.inr (.inr ⟨x, k, .inl rfl, h⟩)))
  | sknp x => obtain ⟨k, h⟩ := raises; exact .inr (.inr (.inr (.inr ⟨x, k, .inr rfl, h⟩)))
  | _ => exact raises.elim

/-! ### What no instruction reads -/

/-- `s` with another sound timer, redraw flag, latch and status. -/
def State.varied (s : State) (b : Byte) (rd : Bool) (e : Option ErrorRecord) (r : Status) : State :=
  (((s.setSt b).setRedraw rd).setErr e).setStatus r

section Varied
variable (s : State) (b : Byte) (rd : Bool) (e : Option ErrorRecord) (r : Status)

theorem State.unchangedBut_varied : UnchangedBut s (s.varied b rd e r) [.st, .redraw, .err, .status] := by
  intro p hp
  cases p with
  | st | redraw | err | status => simp at hp
  | _ => rfl

theorem State.loadRegs_varied (base : Nat) (x : RegIdx) :
    (s.varied b rd e r).loadRegs base x = (s.loadRegs base x).varied b rd e r := by
  unfold State.loadRegs
  exact List.foldl_hom (State.varied · b rd e r) fun _ _ => rfl

theorem State.loaded_varied (x : RegIdx) : (s.varied b rd e r).loaded x = (s.loaded x).varied b rd e r := by
  have base : (s.varied b rd e r).base = s.base := rfl
  rw [State.loaded, State.loaded, State.loadRegs_varied, base]
  generalize s.loadRegs s.base x = u
  rfl

/-- `a` is the answer from a varied state, where `t` is the answer from the state. -/
def VariedNext (t : State) (a : Result) : Prop := ∃ b rd e r, a = .next (t.varied b rd e r)

variable {s t : State} {b : Byte} {rd : Bool} {e : Option ErrorRecord} {r : Status}

theorem variedNext_access {n : Nat} {effect : State} (h : s.access n effect = .next t) :
    VariedNext t ((s.varied b rd e r).access n (effect.varied b rd e r)) := by
  unfold State.access at h ⊢
  rw [show (s.varied b rd e r).base = s.base from rfl]
  split at h
  · cases h; exact ⟨b, rd, _, r, rfl⟩
  · cases h; exact ⟨b, rd, e, r, rfl⟩

theorem variedNext_skipOnKey {x : RegIdx} {pressed : Bool} (h : s.skipOnKey x pressed = .next t) :
    VariedNext t ((s.varied b rd e r).skipOnKey x pressed) := by
  by_cases named : (s.reg x).toNat < 16
  · rw [State.skipOnKey_named pressed named] at h
    cases h
    exact ⟨b, rd, e, r, State.skipOnKey_named pressed named⟩
  · rw [State.skipOnKey_outOfRange pressed named] at h
    cases h
    exact ⟨b, rd, _, r, State.skipOnKey_outOfRange pressed named⟩

/-- From a varied state every instruction answers the same state, varied. -/
theorem variedNext_exec {i : Instr} (h : exec i s = .next t) : VariedNext t (exec i (s.varied b rd e r)) := by
  cases i with
  | cls => cases h; exact ⟨b, true, e, r, rfl⟩
  | ret =>
    by_cases live : s.sp.val = 0
    · rw [exec_ret_empty live] at h; cases h; exact ⟨b, rd, _, r, exec_ret_empty live⟩
    · rw [exec_ret_live live] at h; cases h; exact ⟨b, rd, e, r, exec_ret_live live⟩
  | call nnn =>
    by_cases room : s.sp.val < 16
    · rw [exec_call_room nnn room] at h; cases h; exact ⟨b, rd, e, r, exec_call_room nnn (s := s.varied b rd e r) room⟩
    · rw [exec_call_full nnn room] at h; cases h; exact ⟨b, rd, _, r, exec_call_full nnn (s := s.varied b rd e r) room⟩
  | drw x y n =>
    cases drawing : s.drawing x y n with
    | ok k => rw [exec_drw_ok drawing] at h; cases h; exact ⟨b, true, e, r, exec_drw_ok drawing⟩
    | error v => rw [exec_drw_error drawing] at h; cases h; exact ⟨b, rd, _, r, exec_drw_error drawing⟩
  | skp x => exact variedNext_skipOnKey h
  | sknp x => exact variedNext_skipOnKey h
  | ldVxK x =>
    cases scan : s.lastPressed with
    | none => rw [exec_ldVxK_none x scan] at h; cases h; exact ⟨b, rd, e, r, exec_ldVxK_none x scan⟩
    | some k => rw [exec_ldVxK_pressed x scan] at h; cases h; exact ⟨b, rd, e, r, exec_ldVxK_pressed x scan⟩
  | ldStVx x => cases h; exact ⟨s.reg x, rd, e, r, rfl⟩
  | ldBVx x => exact variedNext_access h
  | ldMemVx x => exact variedNext_access h
  | ldVxMem x => rw [exec_ldVxMem, State.loaded_varied]; exact variedNext_access h
  | _ => cases h; exact ⟨b, rd, e, r, rfl⟩

end Varied

/-- Settles O19: `variedNext_exec`. -/
theorem noInstructionReadsSoundTimerRedrawOrLatch : Obligations.NoInstructionReadsSoundTimerRedrawOrLatch := by
  unfold Obligations.NoInstructionReadsSoundTimerRedrawOrLatch
  intro i s t t' b rd e r run run'
  obtain ⟨b', rd', e', r', run''⟩ := variedNext_exec (b := b) (rd := rd) (e := e) (r := r) run
  cases run'.symm.trans run''
  exact t.unchangedBut_varied b' rd' e' r'

end Sys2Proof.Machine
end

section
/-! The step transaction (spec/40_step_cycle.md R100 to R107) and the error latch (spec/60_exceptions.md R304, R305). -/

namespace Sys2Proof.Machine

/-! ### Fetching -/

theorem State.fetch_ok {s : State} (low : s.pc.toNat ≤ 0xFFE) :
    s.fetch = .ok (opcodeOfBytes (Memory.read s.mem s.pc.toNat) (Memory.read s.mem (s.pc.toNat + 1))) :=
  State.fetch_ok_iff.mpr ⟨low, rfl⟩

/-- A step at a pc above 0xFFE latches and reports the fetch error (R102). -/
theorem step_fetch_error {s : State} (clear : s.err = none) (high : 0xFFE < s.pc.toNat) :
    step s = .next ((s.setErr (some (.outOfBounds s.pc .fetch s.pc.toNat))).setStatus
      (.fatal (.outOfBounds s.pc .fetch s.pc.toNat))) :=
  stepTransaction_fetch_error clear (State.fetch_error high)

/-- Settles O10: `State.fetch_ok` below the limit, `step_fetch_error` above it. -/
theorem fetchReadsTheBigEndianWordAtPc : Obligations.FetchReadsTheBigEndianWordAtPc := by
  unfold Obligations.FetchReadsTheBigEndianWordAtPc
  exact fun s => ⟨fun low => ⟨_, State.fetch_ok low, toNat_opcodeOfBytes _ _⟩,
    fun high clear => step_fetch_error clear high⟩

/-! ### Executing -/

/-- Settles O9: exec answers a next state, and the step reports it. -/
theorem stepRunsTheDecodedInstruction : Obligations.StepRunsTheDecodedInstruction := by
  unfold Obligations.StepRunsTheDecodedInstruction
  intro s i clear low decoded
  obtain ⟨t, run⟩ := exec_next i s
  rw [step, stepTransaction_execute clear (State.fetch_ok low) decoded run, run]
  rfl

/-- A step that fetches an instruction runs it and reports (R100). -/
theorem step_of_fetches {run : Instr → State → Result} {s t : State} {i : Instr} (clear : s.err = none)
    (fetches : s.Fetches i) (answer : run i s = .next t) : stepTransaction run s = .next t.report := by
  obtain ⟨op, fetched, decoded⟩ := fetches
  exact stepTransaction_execute clear fetched decoded answer

theorem step_next (s : State) : ∃ t, step s = .next t := by
  cases latch : s.err with
  | some r => exact ⟨_, stepTransaction_halted latch⟩
  | none =>
    cases fetched : s.fetch with
    | error r => exact ⟨_, stepTransaction_fetch_error latch fetched⟩
    | ok op =>
      cases decoded : decode op with
      | error e => exact ⟨_, stepTransaction_unknown latch fetched decoded⟩
      | ok i =>
        obtain ⟨t, run⟩ := exec_next i s
        exact ⟨_, stepTransaction_execute latch fetched decoded run⟩

/-- Settles O16: `exec_next` and `step_next`. -/
theorem everyInstructionAnswersANextState : Obligations.EveryInstructionAnswersANextState := by
  unfold Obligations.EveryInstructionAnswersANextState
  exact ⟨exec_next, step_next⟩

/-! ### Unknown words -/

/-- An unknown word's frame: pc and the status (R104). -/
theorem State.unchangedBut_advance_setStatus (s : State) (r : Status) :
    UnchangedBut s (s.advance.setStatus r) [.pc, .status] := by
  intro p hp
  cases p with
  | pc | status => simp at hp
  | _ => rfl

/-- Settles O11: the step is `stepTransaction_unknown`, and the next fetch at 0x1000 is above the limit. -/
theorem unknownOpcodeIsReportedAndSkipped : Obligations.UnknownOpcodeIsReportedAndSkipped := by
  unfold Obligations.UnknownOpcodeIsReportedAndSkipped
  intro s op clear fetched unknown
  refine ⟨_, stepTransaction_unknown clear fetched unknown, rfl, rfl, s.unchangedBut_advance_setStatus _, clear, ?_⟩
  intro last
  have pc : (s.advance.setStatus (.unknownOpcode op s.pc)).pc = 0x1000 := by
    rw [State.setStatus_pc, State.advance_pc, last]
    rfl
  have next := step_fetch_error (s := s.advance.setStatus (.unknownOpcode op s.pc)) clear (by rw [pc]; decide)
  rw [pc] at next
  exact ⟨pc, next⟩

/-! ### The random byte -/

/-- A step depends on how the fetched instruction runs, and on no other. -/
theorem stepTransaction_congr {run run' : Instr → State → Result} {s : State}
    (same : ∀ i, s.Fetches i → run i s = run' i s) : stepTransaction run s = stepTransaction run' s := by
  cases latch : s.err with
  | some r => rw [stepTransaction_halted latch, stepTransaction_halted latch]
  | none =>
    cases fetched : s.fetch with
    | error r => rw [stepTransaction_fetch_error latch fetched, stepTransaction_fetch_error latch fetched]
    | ok op =>
      cases decoded : decode op with
      | error e => rw [stepTransaction_unknown latch fetched decoded, stepTransaction_unknown latch fetched decoded]
      | ok i => simp only [stepTransaction, latch, fetched, decoded, same i ⟨op, fetched, decoded⟩]

theorem step_eq_stepWith (s : State) : step s = stepWith (Config.randomByte s.draws) s :=
  stepTransaction_congr fun i _ => exec_eq_execWith i s

/-- Settles O13: rand-mask is the one instruction that `execWith` runs with the byte (`execWith_cases`). -/
theorem onlyRandMaskReadsTheRandomByte : Obligations.OnlyRandMaskReadsTheRandomByte := by
  unfold Obligations.OnlyRandMaskReadsTheRandomByte
  refine ⟨step_eq_stepWith, fun s a b other => stepTransaction_congr fun i fetches => ?same,
    fun s x nn rnd clear fetches => ?randMask⟩
  case same =>
    have plain (rnd : Byte) : execWith rnd i s = exec i s := by
      obtain h | ⟨x, nn, rfl, -⟩ := execWith_cases rnd i s
      · exact h
      · exact absurd fetches (other x nn)
    rw [plain a, plain b]
  case randMask =>
    refine ⟨_, step_of_fetches clear fetches rfl, s.countDraw.reg_setReg_advance x _, rfl, ?_⟩
    refine UnchangedBut.trans (t := (s.countDraw.setReg x (rnd &&& nn)).advance) ?_ ?_
    · exact (s.unchangedBut_countDraw_setReg_advance x _).mono (by simp)
    · exact (State.unchangedBut_setStatus _ _).mono (by simp)

/-! ### Fatal errors -/

/-- Settles O14: an instruction that latches a record is `exec_raised`; a step latches one at the fetch or in the
instruction. -/
theorem fatalErrorsArePrecise : Obligations.FatalErrorsArePrecise := by
  unfold Obligations.FatalErrorsArePrecise
  intro s t r clear latched
  refine ⟨fun i run => (exec_raised clear run latched).1, fun rnd run => ?step⟩
  case step =>
    obtain ⟨r', halted, -⟩ | ⟨r', -, -, rfl⟩ | ⟨op, e, -, -, -, rfl⟩ | ⟨op, i, u, -, -, -, run', rfl⟩ :=
      stepTransaction_cases run
    · simp [clear] at halted
    · cases latched; rfl
    · simp [clear] at latched
    · obtain ⟨rfl, -⟩ := execWith_raised clear run' latched
      rfl

theorem State.load_oversized {s : State} {bytes : List Byte} (long : 3584 < bytes.length) :
    s.load bytes = (s.raise (.loadError bytes.length)).report := if_pos long

theorem State.load_fits {s : State} {bytes : List Byte} (fits : bytes.length ≤ 3584) :
    s.load bytes = (s.setMem (Memory.writeBytes s.mem 0x200 bytes)).setStatus .ok := if_neg (Nat.not_lt.mpr fits)

/-- Settles O12: every step is halted, and of the other transactions a load latches a record or leaves the latch, and
reset alone empties it. -/
theorem latchedErrorHaltsEveryStepUntilReset : Obligations.LatchedErrorHaltsEveryStepUntilReset := by
  unfold Obligations.LatchedErrorHaltsEveryStepUntilReset
  intro s r latched
  have relatch : s = (s.setErr none).setErr (some r) := by
    obtain ⟨_⟩ := s
    cases latched
    rfl
  refine ⟨fun rnd => stepTransaction_halted latched, stepTransaction_halted latched, ?tick, ?clearRedraw, ?setKey,
    fun tr t run => ?latch⟩
  case tick => exact congrArg State.tick relatch
  case clearRedraw => exact congrArg State.clearRedraw relatch
  case setKey => exact fun k b => congrArg (State.setKey · k b) relatch
  case latch =>
    have stays : s.err ≠ none := by simp [latched]
    cases tr with
    | reset => cases run; exact iff_of_true rfl rfl
    | load bytes =>
      cases run
      by_cases fits : bytes.length ≤ 3584
      · rw [State.load_fits fits]; exact iff_of_false stays nofun
      · rw [State.load_oversized (Nat.lt_of_not_le fits)]; exact iff_of_false nofun nofun
    | step rnd => cases (stepTransaction_halted latched).symm.trans run; exact iff_of_false stays nofun
    | tick | setKey | clearRedraw => cases run; exact iff_of_false stays nofun

end Sys2Proof.Machine
end

section
/-! The invariant over every transaction, and the transactions themselves (spec/00_scope.md R11,
spec/70_reset_and_hazards.md R350 to R358). -/

namespace Sys2Proof.Machine

/-! ### Reset -/

/-- Settles O1: memory is empty, so an address reads as unwritten; every vector is constant. -/
theorem resetLeavesEveryElementAtItsResetValue : Obligations.ResetLeavesEveryElementAtItsResetValue := by
  unfold Obligations.ResetLeavesEveryElementAtItsResetValue
  refine ⟨fun _ _ => rfl, fun x => Vector.getElem_replicate _, rfl, rfl, fun k => Vector.getElem_replicate _, rfl, rfl,
    rfl, fun c _ => Framebuffer.cell_clear c, fun k hk => ?_, rfl, rfl⟩
  rw [State.reset.keyAt_fin ⟨k, hk⟩]
  exact Vector.getElem_replicate _

/-- Settles O2: the stack is empty, so no entry is live. -/
theorem resetMeetsTheInvariant : Obligations.ResetMeetsTheInvariant := by
  unfold Obligations.ResetMeetsTheInvariant
  exact ⟨Memory.wf_reset, by decide, fun k hk => absurd hk (Nat.not_lt_zero _)⟩

/-- Settles O53: the reset state's fields name no field of the state before but the count of draws. -/
theorem resetForgetsTheStateBefore : Obligations.ResetForgetsTheStateBefore := by
  unfold Obligations.ResetForgetsTheStateBefore
  refine fun s => ⟨rfl, fun p hp => ?_, rfl⟩
  cases p with
  | draws => simp at hp
  | _ => rfl

/-! ### The invariant -/

/-- An instruction keeps the invariant from a fetchable pc (R26, R55, R140). -/
theorem execWith_inv {rnd : Byte} {i : Instr} {s t : State} (low : s.pc.toNat ≤ 0xFFE) (inv : s.Inv)
    (h : execWith rnd i s = .next t) : t.Inv := by
  obtain complete | ⟨r, rfl, -⟩ := execWith_cases_next h
  · exact complete.inv low inv
  · exact inv.of_same rfl rfl rfl rfl

/-- A step keeps the invariant: halted or at a fetch error it moves nothing, and otherwise its pc is fetchable. -/
theorem stepWith_inv {rnd : Byte} {s t : State} (inv : s.Inv) (h : stepWith rnd s = .next t) : t.Inv := by
  obtain ⟨r, -, rfl⟩ | ⟨r, -, -, rfl⟩ | ⟨op, e, -, fetched, -, rfl⟩ | ⟨op, i, u, -, fetched, -, run, rfl⟩ :=
    stepTransaction_cases h
  · exact inv.of_same rfl rfl rfl rfl
  · exact inv.of_same rfl rfl rfl rfl
  · have low := (State.fetch_ok_iff.mp fetched).1
    exact inv.of_eq rfl rfl rfl (pc_add_le low (by decide))
  · have low := (State.fetch_ok_iff.mp fetched).1
    exact (execWith_inv low inv run).of_same rfl rfl rfl rfl

/-- A load keeps the invariant: an image that fits ends at or below 0xFFF (R353, R354). -/
theorem State.load_inv {s : State} (inv : s.Inv) (bytes : List Byte) : (s.load bytes).Inv := by
  by_cases fits : bytes.length ≤ 3584
  · rw [State.load_fits fits]
    exact inv.of_store (a := 0x200) (vs := bytes) (by omega) rfl rfl rfl inv.2.1
  · rw [State.load_oversized (Nat.lt_of_not_le fits)]
    exact inv.of_same rfl rfl rfl rfl

/-- Settles O4: a step is `stepWith_inv`, a load `State.load_inv`, a reset the invariant after reset, and the rest touch
neither memory, stack nor pc. -/
theorem everyTransactionKeepsTheInvariant : Obligations.EveryTransactionKeepsTheInvariant := by
  unfold Obligations.EveryTransactionKeepsTheInvariant
  intro tr s t inv h
  cases tr with
  | reset => cases h; exact resetMeetsTheInvariant
  | load bytes => cases h; exact s.load_inv inv bytes
  | step rnd => exact stepWith_inv inv h
  | tick | setKey | clearRedraw => cases h; exact inv.of_same rfl rfl rfl rfl

/-- Settles O3: a step is the step transaction at the free byte of this draw. -/
theorem everyStepKeepsTheInvariant : Obligations.EveryStepKeepsTheInvariant := by
  unfold Obligations.EveryStepKeepsTheInvariant
  exact fun s t inv h => stepWith_inv inv (step_eq_stepWith s ▸ h)

/-! ### Load -/

/-- The frame of an image that fits: memory reads as before outside it (R353). -/
theorem State.unchangedBut_load {s : State} {bytes : List Byte} (fits : bytes.length ≤ 3584) :
    UnchangedBut s (s.load bytes) (.status :: memParts 0x200 bytes.length) := by
  intro p hp
  obtain ⟨notStatus, notImage⟩ := not_or.mp (mt List.mem_cons.mpr hp)
  rw [State.load_fits fits]
  cases p with
  | status => exact absurd rfl notStatus
  | mem a => exact Memory.read_writeBytes_outside (mem_not_mem_memParts notImage)
  | _ => rfl

/-- Settles O50: each byte of the image reads back where it was written. -/
theorem loadCopiesTheImage : Obligations.LoadCopiesTheImage := by
  unfold Obligations.LoadCopiesTheImage
  intro bytes s fits
  refine ⟨fun k hk => ?byte, ?status, State.unchangedBut_load fits⟩
  all_goals rw [State.load_fits fits]
  case byte => exact Memory.read_writeBytes_inside hk
  case status => rfl

/-- Settles O51: an oversized load is a raise and its report, and the latch halts the next step. -/
theorem oversizedImageLatchesALoadError : Obligations.OversizedImageLatchesALoadError := by
  unfold Obligations.OversizedImageLatchesALoadError
  intro bytes s clear
  refine ⟨fun long => ?oversized, fun fits => ?fits⟩
  case oversized =>
    rw [State.load_oversized long]
    refine ⟨rfl, rfl, ?frame, fun rnd => stepTransaction_halted rfl, rfl⟩
    case frame =>
      refine UnchangedBut.trans (t := s.raise (.loadError bytes.length)) ?_ ?_
      · exact (s.unchangedBut_raise _).mono (by simp)
      · exact (State.unchangedBut_setStatus _ _).mono (by simp)
  case fits =>
    rw [State.load_fits fits]
    exact ⟨clear, rfl⟩

/-! ### Placing a word -/

/-- The address the next fetch reads once a word is placed (assumption 12). -/
def State.fetchPc (s : State) : Word := if s.pc.toNat + 1 > Config.addrMax then 0x200 else s.pc

theorem State.fetchPc_le (s : State) : s.fetchPc.toNat ≤ 0xFFE := by
  unfold State.fetchPc
  split
  · decide
  · next low => simp only [Config.addrMax] at low; omega

theorem State.fetchPc_of_low {s : State} (low : s.pc.toNat ≤ 0xFFE) : s.fetchPc = s.pc :=
  if_neg (by simp only [Config.addrMax]; omega)

theorem State.withFetchWord_eq (s : State) (op : Word) : s.withFetchWord 16 op.toNat =
    ((s.setPc s.fetchPc).setErr none).setMem
      (Memory.writeBytes s.mem s.fetchPc.toNat [(bytesOfOpcode op).1, (bytesOfOpcode op).2]) := by
  rw [State.withFetchWord, tableOpcode_toNat, State.fetchPc]

/-- Settles O54: the two bytes read back at the address the fetch reads, and together are the word. -/
theorem placedWordIsFetchedNext : Obligations.PlacedWordIsFetchedNext := by
  unfold Obligations.PlacedWordIsFetchedNext
  intro s op
  rw [State.withFetchWord_eq]
  refine ⟨rfl, State.fetch_ok_iff.mpr ⟨s.fetchPc_le, ?word⟩, fun clear low p hp => ?frame⟩
  case word =>
    have hi := Memory.read_writeBytes_inside (vs := [(bytesOfOpcode op).1, (bytesOfOpcode op).2]) (m := s.mem)
      (a := s.fetchPc.toNat) (k := 0) (by simp)
    have lo := Memory.read_writeBytes_inside (vs := [(bytesOfOpcode op).1, (bytesOfOpcode op).2]) (m := s.mem)
      (a := s.fetchPc.toNat) (k := 1) (by simp)
    exact ((congrArg₂ opcodeOfBytes hi lo).trans (opcodeOfBytes_bytesOfOpcode op)).symm
  case frame =>
    rw [State.fetchPc_of_low low]
    cases p with
    | mem a => exact Memory.read_writeBytes_outside (mem_not_mem_memParts hp)
    | err => exact clear.symm
    | _ => rfl

/-! ### The end of a run -/

/-- A run goes on from the state its first step answers. -/
theorem run_succ {M : Host.Core} {s t : M.State} (h : M.step s = .next t) (n : Nat) : M.run (n + 1) s = M.run n t := by
  rw [Host.Core.run, h]

/-- Where a step only reports, and a report leaves that so, a run only reports (R358). -/
theorem run_reports {P : State → Prop} (report : ∀ s, P s → ∃ r, step s = .next (s.setStatus r))
    (kept : ∀ s r, P s → P (s.setStatus r)) : ∀ (n : Nat) (s : State), P s →
    ∃ t, core.run n s = .next t ∧ UnchangedBut s t [.status] := by
  intro n
  induction n with
  | zero => exact fun s _ => ⟨s, rfl, .refl s _⟩
  | succ n ih =>
    intro s hs
    obtain ⟨r, next⟩ := report s hs
    obtain ⟨t, run, frame⟩ := ih _ (kept s r hs)
    exact ⟨t, (run_succ (M := core) next n).trans run, (s.unchangedBut_setStatus r).trans frame⟩

/-- An instruction that answers its own state makes a step that only reports. -/
theorem step_reports {s : State} {i : Instr} (clear : s.err = none) (fetches : s.Fetches i)
    (answer : exec i s = .next s) : ∃ r, step s = .next (s.setStatus r) :=
  ⟨_, step_of_fetches clear fetches answer⟩

/-- Settles O46: a jump to its own address answers its own state. -/
theorem parkedStaysParked : Obligations.ParkedStaysParked := by
  unfold Obligations.ParkedStaysParked
  refine fun s parked n => run_reports (P := State.Parked) ?report (fun _ _ h => h) n s parked
  case report =>
    rintro s ⟨clear, nnn, fetches, own⟩
    refine step_reports clear fetches ?_
    rw [exec_jp, State.setPc_self own]

/-- Settles O45: without a key wait-key answers its own state; with one it is the highest, being the only one. -/
theorem waitingLastsUntilAKeyIsPressed : Obligations.WaitingLastsUntilAKeyIsPressed := by
  unfold Obligations.WaitingLastsUntilAKeyIsPressed
  rintro s waiting
  refine ⟨fun n => run_reports (P := State.Waiting) ?report (fun _ _ h => h) n s waiting, fun k x fetches => ?pressed⟩
  case report =>
    rintro s ⟨clear, ⟨x, fetches⟩, idle⟩
    exact step_reports clear fetches (exec_ldVxK_none x (State.lastPressed_none idle))
  case pressed =>
    obtain ⟨clear, -, idle⟩ := waiting
    have keys (j : Nat) : (s.setKey k true).keyAt j = if j = k.val then true else s.keyAt j :=
      s.keyAt_setKeyState k true j
    obtain ⟨-, -, highest⟩ := waitKeyTakesTheHighestPressedKey x (s.setKey k true)
    obtain ⟨t, run, number, pc, -⟩ := highest k.val k.isLt (by rw [keys, if_pos rfl]) fun j hj above => by
      rw [keys, if_neg (Nat.ne_of_gt above), idle j hj]
    exact ⟨t.report, step_of_fetches clear fetches run, number, pc⟩

end Sys2Proof.Machine
end
